-- ==== Sys2Proof/Machine/Crc.lean ====
section
/-! DEFINITION. The CRC-8 function: bit step, byte step, sequence (40_crc.md R120 to R122). -/

namespace Sys2Proof.Machine

/-- R120: one bit step; the shift drops bit 7 and enters a 0 at bit 0. -/
def crcBit (acc poly : Byte) : Byte :=
  if acc.getLsbD 7 then (acc <<< 1) ^^^ poly else acc <<< 1

/-- R121: the whole byte is XORed in, then eight bit steps. -/
def crcByte (acc b poly : Byte) : Byte :=
  let step := fun a => crcBit a poly
  step (step (step (step (step (step (step (step (acc ^^^ b))))))))

/-- R122: the bytes in order, starting from init. -/
def crc8 (data : List Byte) (poly init : Byte) : Byte :=
  data.foldl (fun acc b => crcByte acc b poly) init

end Sys2Proof.Machine
end

