-- ==== Sys2Proof/Config.lean ====
section
/-! DEFINITION. The construction parameters of 00_scope.md R8 with this hardware's values, and the free values the spec leaves open. -/

namespace Sys2Proof.Config

/-- POLL_ORDER (R8, R211): whether a poll tests the deadline before or after trying to read a frame. -/
inductive PollOrder where
  | deadlineFirst
  | frameFirst
deriving DecidableEq, Repr

/-- POLY (R8): the CRC polynomial byte. -/
def poly : Byte := 0x07

/-- INIT (R8): the initial value of the CRC accumulator. -/
def init : Byte := 0x00

/-- TIMEOUT (R8): the handshake timeout in time units. -/
def timeout : Nat := 5

/-- TIMEW (R8, OPEN): the width of NOW, T_SEND and TIMEOUT; `none` is unbounded, the spec's default.
DESIGN CHOICE (log 11): only `State.reset` uses this value, the machine reads the field `timew` of State. -/
def timew : Option Nat := none

/-- POLL_ORDER (R8, decision D15): deadline first for this hardware. -/
def pollOrder : PollOrder := .deadlineFirst

/-- HDR_LEN (R8): bytes of the fixed header. -/
abbrev hdrLen : Nat := 3

/-- MAX_PAYLOAD (R8): the largest payload of a frame. -/
abbrev maxPayload : Nat := 15

/-- BUF_MAX (R8): the capacity of TXB, of RXB and of the DECODE operand; it is MAX_FRAME = HDR_LEN + MAX_PAYLOAD. -/
abbrev bufMax : Nat := 18

/-- PAY_IN_MAX (R8): the largest payload a host can present to ENCODE or XSTART. -/
abbrev payInMax : Nat := 255

/-- What a buffer byte reads as when nothing is listed for it: the reset contents 0x00 (10_state.md R41). -/
abbrev unlistedByte : Byte := 0x00

/-- Free value (log 12): how many bytes the transport hands over at its n-th free choice; TRead cuts it to what R65 allows. -/
opaque freeRead : Nat → Nat

/-- Free value (log 14): how many bytes of a frame had been sent when TWrite failed at the n-th free choice (R63, U7). -/
opaque freeSent : Nat → Nat

end Sys2Proof.Config
end

