-- ==== Sys2Proof/Syntax.lean ====
section
/-! DEFINITION. The instructions: one constructor per row of spec/opcode_table.json, and the names decoding uses. -/

namespace Sys2Proof

/-- The rows of the opcode table (30_encoding.md R90, R101, R102, R104). Operand bytes of ENCODE and XSTART may be wider
than their 5-bit and 3-bit fields; the excess bits are dropped by EncodeFn (R100; log 4). -/
inductive Instr where
  /-- CRCINIT (R127) -/
  | crcinit
  /-- CRCBYTE b (R128) -/
  | crcbyte (b : Byte)
  /-- CRC8 data, any finite length (R126) -/
  | crc8 (data : List Byte)
  /-- ENCODE flags, ulp, payload (R141) -/
  | encode (flags ulp : Byte) (payload : List Byte)
  /-- DECODE buffer (R145) -/
  | decode (buffer : List Byte)
  /-- RDFRAME (R178) -/
  | rdframe
  /-- XSTART flags, ulp, payload (R192) -/
  | xstart (flags ulp : Byte) (payload : List Byte)
  /-- XABANDON (R201) -/
  | xabandon
  /-- reserved code 0x0 (R102, R237) -/
  | illegal0
  /-- reserved code 0x7 -/
  | illegal7
  /-- reserved code 0xA -/
  | illegalA
  /-- reserved code 0xB -/
  | illegalB
  /-- reserved code 0xC -/
  | illegalC
  /-- reserved code 0xD -/
  | illegalD
  /-- reserved code 0xE -/
  | illegalE
  /-- reserved code 0xF -/
  | illegalF
  /-- XSEND, the autonomous step of SENDING (R193) -/
  | xsend
  /-- XPOLL, the autonomous step of AWAITING_REPLY (R194) -/
  | xpoll
  /-- FRAME (R90): a frame on the line whose checksum does not verify (class corrupt of R99); letters u, r, c as in the table,
  the letters s a g n t together as `flags`, the length l as the number of payload bytes -/
  | frame (flags : BitVec 5) (ulp : BitVec 3) (rsv : BitVec 4) (csum : Byte) (payload : List Byte)
  /-- FRAME.ENCODED (R140): a frame as an encoder produces it, reserved nibble zero -/
  | frameEncoded (flags : BitVec 5) (ulp : BitVec 3) (csum : Byte) (payload : List Byte)
  /-- FRAME.ACK (R197): a frame on the line that verifies and whose ACK bit is 1; s g n t are the other flag bits -/
  | frameAck (s g n t : Bool) (ulp : BitVec 3) (rsv : BitVec 4) (csum : Byte) (payload : List Byte)
  /-- FRAME.NACK (R198): a frame on the line that verifies and whose ACK bit is 0 -/
  | frameNack (s g n t : Bool) (ulp : BitVec 3) (rsv : BitVec 4) (csum : Byte) (payload : List Byte)
deriving DecidableEq, Repr

/-- Where the bytes of an instruction come from; the table's formats CMD, AUTO and FRAME, the last with its two sources (log 7). -/
inductive Port where
  /-- a host command transaction: the code, then the operands (R101) -/
  | cmd
  /-- the selection of an autonomous step: the code of HS_STATE (R104) -/
  | auto
  /-- a whole frame as found on the line (R98, R99) -/
  | line
  /-- a whole frame as a FERM encoder at the far end hands it over (R140, R252) -/
  | peer
deriving DecidableEq, Repr

/-- Why bytes are no instruction. -/
inductive DecodeError where
  /-- a transaction without a command code -/
  | noCode
  /-- an operand of the command is missing -/
  | operandMissing
  /-- more operand bytes than the command takes -/
  | operandExtra
  /-- a payload longer than PAY_IN_MAX (U12) -/
  | payloadOverPort
  /-- a DECODE buffer longer than BUF_MAX (U12) -/
  | bufferOverPort
  /-- HS_STATE enables no autonomous step (R103, R205) -/
  | noStepEnabled
  /-- fewer bytes than a header -/
  | headerMissing
  /-- the payload is not of the declared length, so this is no whole frame (R98) -/
  | notWholeFrame
  /-- no encoder produces these bytes (R140) -/
  | notEncoded
deriving DecidableEq, Repr

/-- What the decoder answers. -/
inductive Decoded where
  | ok (i : Instr)
  | error (e : DecodeError)
deriving DecidableEq, Repr

end Sys2Proof
end

