-- ==== Sys2Proof/Machine/State.lean ====
section
/-! DEFINITION. The machine's state as plain data (10_state.md R20), its parts, the reasons a step can stop, and the state after reset (R41). -/

namespace Sys2Proof.Machine

/-- The handshake states (R25, R103); all eight codes of the 3-bit register are used. -/
inductive HsState where
  | idle
  | sending
  | awaitingReply
  | acked
  | nacked
  | corrupt
  | timedOut
  | faulted
deriving DecidableEq, Repr

/-- The exceptions (60_exceptions.md R230), each with what it records. -/
inductive Exn where
  /-- R231: a buffer of n < 3 bytes presented to DECODE -/
  | bufferTooShort (n : Nat)
  /-- R232: a payload of n > 15 bytes presented to ENCODE or XSTART -/
  | payloadTooLong (n : Nat)
  /-- R233: the checksum received and the one computed -/
  | checksumMismatch (rx comp : Byte)
  /-- R234: a transport primitive answered fault -/
  | transportFault
  /-- R235: never raised; kept for its code -/
  | timeout
  /-- R236: XSTART or RDFRAME during an active exchange -/
  | busy (hs : HsState)
  /-- R237: a reserved command code -/
  | illegalCommand (code : BitVec 4)
deriving DecidableEq, Repr

/-- The logical Packet (R37). -/
structure Packet where
  flags : BitVec 5
  ulp : BitVec 3
  payload : List Byte
  checksum : Byte
deriving DecidableEq, Repr

/-- The five named booleans of a flags value (R29). -/
structure NamedFlags where
  isSof : Bool
  isAck : Bool
  isFragment : Bool
  isFinal : Bool
  isRetransmit : Bool
deriving DecidableEq, Repr

/-- What a host command responds (R101, R238). -/
inductive Response where
  /-- `ok()` of XSTART and XABANDON -/
  | unit
  /-- `ok(ACC)` of the CRC commands -/
  | acc (value : Byte)
  /-- `ok(frame)` of ENCODE -/
  | encoded (frame : List Byte)
  /-- `ok(...)` of DECODE -/
  | packet (p : Packet) (named : NamedFlags)
  /-- `ok(Pending)` of RDFRAME -/
  | pending
  /-- `ok(Frame(f))` of RDFRAME -/
  | received (frame : List Byte)
  /-- `fail(X(info))` of any command -/
  | fail (x : Exn)
deriving DecidableEq, Repr

/-- One answer of the transport to TRead (R65, R66): up to k bytes, or `fault`, after which the transport has failed (log 13). -/
inductive ReadAnswer where
  | upTo (k : Nat)
  | fault
deriving DecidableEq, Repr

/-- READ_POLICY (R8, R65): the reference transport hands over all it may; any other gives its answers one by one, and is free
when the list is used up (log 12). -/
inductive ReadPolicy where
  | greedy
  | answers (next : List ReadAnswer)
deriving DecidableEq, Repr

/-- The environment's steps (60_exceptions.md R242). -/
inductive EnvEvent where
  /-- T.ARRIVE b (R67) -/
  | arrive (b : Byte)
  /-- T.FAIL (R66) -/
  | fail
  /-- T.REPAIR, which R66 lets a model add (log 20) -/
  | repair
  /-- TICK d (R250) -/
  | tick (d : Nat)
  /-- RESET (70_reset_and_hazards.md R270) -/
  | reset
deriving DecidableEq, Repr

/-- One step of some agent (00_scope.md R7): instruction bytes at a port, the controller's turn, or an environment step. -/
inductive Event where
  /-- the host presents a command transaction -/
  | cmd (bytes : List Byte)
  /-- the controller takes its enabled autonomous step, if there is one -/
  | auto
  /-- the transport delivers a whole frame found on the line -/
  | line (bytes : List Byte)
  /-- the transport delivers a whole frame that an encoder at the far end produced -/
  | peer (bytes : List Byte)
  | env (e : EnvEvent)
deriving DecidableEq, Repr

/-- A frame buffer: its nonzero bytes by wire offset, offsets strictly rising; an unlisted byte reads 0x00 (log 22). -/
abbrev Memory := List Host.Cell

/-- The complete state: the registers of R20, the configuration of R32 and R8, the environment of R34 and R35, and the model's
agenda, responses and choice counter. -/
structure State where
  /-- ACC (R22) -/
  acc : Byte
  /-- TXB (R23) -/
  txb : Memory
  /-- TX_CNT (R23) -/
  txCnt : BitVec 5
  /-- RXB (R24) -/
  rxb : Memory
  /-- RX_CNT (R24) -/
  rxCnt : BitVec 5
  /-- HS_STATE (R25) -/
  hsState : HsState
  /-- T_SEND (R27) -/
  tSend : Nat
  /-- RP_FLAGS (R28) -/
  rpFlags : BitVec 5
  /-- RP_ULP (R28) -/
  rpUlp : BitVec 3
  /-- RP_LEN (R28) -/
  rpLen : BitVec 4
  /-- RP_PAY (R28) -/
  rpPay : Memory
  /-- RP_CSUM (R28) -/
  rpCsum : Byte
  /-- CS_RX (R30) -/
  csRx : Byte
  /-- CS_CALC (R30) -/
  csCalc : Byte
  /-- ERR (R31) -/
  err : BitVec 3
  /-- ERR_INFO (R31) -/
  errInfo : BitVec 16
  /-- POLY (R32), read-only -/
  poly : Byte
  /-- INIT (R32), read-only -/
  init : Byte
  /-- TIMEOUT (R32), read-only -/
  timeout : Nat
  /-- TIMEW (R8), a construction parameter; none is unbounded (log 11) -/
  timew : Option Nat
  /-- POLL_ORDER (R8, R211), a construction parameter (log 16) -/
  pollOrder : Config.PollOrder
  /-- READ_POLICY (R8, R65), the transport's (log 12) -/
  readPolicy : ReadPolicy
  /-- NOW (R34), an input -/
  now : Nat
  /-- RXQ (R35), the bytes arrived and not read, oldest first -/
  rxq : List Byte
  /-- TXLOG (R35), the bytes written, oldest first -/
  txlog : List Byte
  /-- TFAULT (R35) -/
  tfault : Bool
  /-- the steps the agents are still to take, in order (log 1) -/
  agenda : List Event
  /-- the responses given so far, oldest first (log 19) -/
  responses : List Response
  /-- counts the free choices of the transport (log 15) -/
  choices : Nat
deriving DecidableEq, Repr

/-- The machine stops with a fault. -/
inductive Fault where
  /-- Raised by XSEND when TX_CNT is above 18: the access would leave the buffer, and R61 says no such access exists. Safe: no
  reachable state has such a count. -/
  | bufferRange
deriving DecidableEq, Repr

/-- The machine gives no meaning. -/
inductive Refusal where
  /-- Raised by `exec` for an instruction that has no meaning yet. Safe. -/
  | notModelled (mnemonic : String)
  /-- Raised by `step` for bytes that are no instruction of their port: the interface cannot carry them (93 U12, refuse). Safe. -/
  | notCarried (e : DecodeError)
deriving DecidableEq, Repr

/-- The state just after RESET (R41, R271) with the initial environment of R272. NOW, the agenda, the responses, the choice
counter and READ_POLICY hold the model's values (log 2, 9, 12, 15, 19), TIMEW the spec's default (log 11). -/
def State.reset : State where
  acc := Config.init
  txb := []
  txCnt := 0
  rxb := []
  rxCnt := 0
  hsState := .idle
  tSend := 0
  rpFlags := 0
  rpUlp := 0
  rpLen := 0
  rpPay := []
  rpCsum := 0
  csRx := 0
  csCalc := 0
  err := 0
  errInfo := 0
  poly := Config.poly
  init := Config.init
  timeout := Config.timeout
  timew := Config.timew
  pollOrder := Config.pollOrder
  readPolicy := .answers []
  now := 0
  rxq := []
  txlog := []
  tfault := false
  agenda := []
  responses := []
  choices := 0

end Sys2Proof.Machine
end

