-- ==== Sys2Proof/Machine/Codes.lean ====
section
/-! DEFINITION. The numeric codes of states and exceptions (30_encoding.md R103, R105) and what an exception records (60_exceptions.md R230). -/

namespace Sys2Proof.Machine

/-- R103: the code of a handshake state. -/
def HsState.code : HsState → BitVec 3
  | .idle => 0
  | .sending => 1
  | .awaitingReply => 2
  | .acked => 3
  | .nacked => 4
  | .corrupt => 5
  | .timedOut => 6
  | .faulted => 7

/-- R103: the state with a given code. -/
def HsState.ofCode (c : BitVec 3) : HsState :=
  match c.toNat with
  | 0 => .idle
  | 1 => .sending
  | 2 => .awaitingReply
  | 3 => .acked
  | 4 => .nacked
  | 5 => .corrupt
  | 6 => .timedOut
  | _ => .faulted

/-- R190: the states in which an exchange is active. -/
def HsState.active : HsState → Bool
  | .sending => true
  | .awaitingReply => true
  | .idle | .acked | .nacked | .corrupt | .timedOut | .faulted => false

/-- R190: the states in which an exchange is over. -/
def HsState.terminal : HsState → Bool
  | .acked | .nacked | .corrupt | .timedOut | .faulted => true
  | .idle | .sending | .awaitingReply => false

/-- R105: the value an exception writes to ERR. -/
def Exn.code : Exn → BitVec 3
  | .bufferTooShort _ => 1
  | .payloadTooLong _ => 2
  | .checksumMismatch _ _ => 3
  | .transportFault => 4
  | .timeout => 5
  | .busy _ => 6
  | .illegalCommand _ => 7

/-- R230: the value an exception writes to ERR_INFO. -/
def Exn.info : Exn → BitVec 16
  | .bufferTooShort n => BitVec.ofNat 16 n
  | .payloadTooLong n => BitVec.ofNat 16 n
  | .checksumMismatch rx comp => (rx.setWidth 16 <<< 8) ||| comp.setWidth 16
  | .transportFault => 0
  | .timeout => 0
  | .busy hs => hs.code.setWidth 16
  | .illegalCommand code => code.setWidth 16

end Sys2Proof.Machine
end

