-- ==== Sys2Proof/Machine/Ops.lean ====
section
/-! DEFINITION. The shared operations: buffer access (20_memory.md R61), raising an exception (60_exceptions.md R238), responding, and
the three transport primitives (20_memory.md R63 to R66). There is no return from an exception, because nothing is entered (R244). -/

namespace Sys2Proof.Machine

/-! ### Buffers -/

/-- The byte at an offset of a buffer. -/
def Memory.read : Memory → Nat → Byte
  | [], _ => Config.unlistedByte
  | (k, v) :: rest, a => if k = a then v else Memory.read rest a

/-- One byte written at an offset, keeping the canonical form: offsets rising, no entry equal to the unlisted byte. -/
def Memory.write : Memory → Nat → Byte → Memory
  | [], a, b => if b = Config.unlistedByte then [] else [(a, b)]
  | (k, v) :: rest, a, b =>
    if a < k then (if b = Config.unlistedByte then (k, v) :: rest else (a, b) :: (k, v) :: rest)
    else if a = k then (if b = Config.unlistedByte then rest else (a, b) :: rest)
    else (k, v) :: Memory.write rest a b

/-- The canonical form from offset `lo` on, all offsets below `cap`. -/
def Memory.wfFrom (cap : Nat) : Nat → Memory → Bool
  | _, [] => true
  | lo, (k, v) :: rest =>
    decide (lo ≤ k) && decide (k < cap) && decide (v ≠ Config.unlistedByte) && Memory.wfFrom cap (k + 1) rest

/-- The canonical form of a buffer of `cap` bytes: offsets strictly rising and in the buffer, no entry equal to the unlisted byte. -/
def Memory.wf (cap : Nat) (m : Memory) : Bool := Memory.wfFrom cap 0 m

/-- R61: MemRead, the n bytes from offset `addr` on. -/
def memRead (m : Memory) (addr n : Nat) : List Byte :=
  (List.range n).map fun i => Memory.read m (addr + i)

/-- R61: MemWrite, the bytes of a sequence from offset `addr` on. -/
def memWrite : Memory → Nat → List Byte → Memory
  | m, _, [] => m
  | m, addr, b :: rest => memWrite (Memory.write m addr b) (addr + 1) rest

/-! ### Responses and exceptions -/

/-- R11: the command ends with response v. -/
def respond (v : Response) (s : State) : State :=
  { s with responses := s.responses ++ [v] }

/-- R238: an exception is raised. The response is `fail`, ERR and ERR_INFO are written, every other register keeps its value. -/
def raise (x : Exn) (s : State) : State :=
  { s with err := x.code, errInfo := x.info, responses := s.responses ++ [.fail x] }

/-- R200: a transport failure in an autonomous step ends the exchange in FAULTED; no response, since no command is in progress. -/
def faultExchange (s : State) : State :=
  { s with err := Exn.code .transportFault, errInfo := Exn.info .transportFault, hsState := .faulted }

/-! ### The transport primitives -/

/-- What a failing TWrite leaves: an unspecified part of the frame's front has been sent (R63, U7; log 14). -/
def writeFailed (bytes : List Byte) (s : State) : State :=
  { s with txlog := s.txlog ++ bytes.take (Config.freeSent s.choices), choices := s.choices + 1 }

/-- R63: TWrite. The Boolean is true for `ok`, false for `fault`. -/
def tWrite (bytes : List Byte) (s : State) : Bool × State :=
  if s.tfault then (false, writeFailed bytes s) else (true, { s with txlog := s.txlog ++ bytes })

/-- R64: TAvail, the number of bytes waiting, or none for `fault`. -/
def tAvail (s : State) : Option Nat :=
  if s.tfault then none else some s.rxq.length

/-- R65: hand over the first k bytes of the queue, at most n. -/
def handOver (n k : Nat) (s : State) : Option (List Byte) × State :=
  (some (s.rxq.take (min n k)), { s with rxq := s.rxq.drop (min n k) })

/-- R65, R66: TRead(n); the transport picks how many of the first n bytes it returns (log 12), none is `fault`. -/
def tRead (n : Nat) (s : State) : Option (List Byte) × State :=
  if s.tfault then (none, s)
  else
    match s.readPolicy with
    | .greedy => handOver n n s
    | .answers [] => handOver n (Config.freeRead s.choices) { s with choices := s.choices + 1 }
    | .answers (.upTo k :: rest) => handOver n k { s with readPolicy := .answers rest }
    | .answers (.fault :: rest) => (none, { s with readPolicy := .answers rest, tfault := true })

/-! ### Time -/

/-- R250: a time value cut to TIMEW bits. -/
def wrapTime (timew : Option Nat) (t : Nat) : Nat :=
  match timew with
  | none => t
  | some w => t % 2 ^ w

/-- R194: the time elapsed since the send, modulo 2^TIMEW, plain when TIMEW is unbounded (log 28). -/
def elapsed (s : State) : Nat :=
  match s.timew with
  | none => s.now - s.tSend
  | some w => (((s.now : Int) - (s.tSend : Int)) % ((2 ^ w : Nat) : Int)).toNat

end Sys2Proof.Machine
end

