-- ==== Sys2Proof/Machine/Checksum.lean ====
section
/-! DEFINITION. The Checksum unit's commands (40_crc.md R126 to R128). -/

namespace Sys2Proof.Machine

/-- ACC <- v, respond ACC. -/
def setAcc (v : Byte) (s : State) : State :=
  respond (.acc v) { s with acc := v }

/-- R127: CRCINIT. -/
def execCrcinit (s : State) : Host.Outcome State Fault Refusal :=
  .next (setAcc s.init s)

/-- R128: CRCBYTE b. -/
def execCrcbyte (b : Byte) (s : State) : Host.Outcome State Fault Refusal :=
  .next (setAcc (crcByte s.acc b s.poly) s)

/-- R126: CRC8 data. -/
def execCrc8 (data : List Byte) (s : State) : Host.Outcome State Fault Refusal :=
  .next (setAcc (crc8 data s.poly s.init) s)

end Sys2Proof.Machine
end

