-- ==== Sys2Proof/Machine/Operands.lean ====
section
/-! DEFINITION. Operand assembly and the fields of the wire frame (30_encoding.md R90 to R98, R100). -/

namespace Sys2Proof.Machine

/-- R91, R100: the control byte; wider flags and ulp are masked. -/
def controlByte (flags ulp : Nat) : Byte :=
  BitVec.ofNat 8 (((flags &&& 0x1F) <<< 3) ||| (ulp &&& 0x07))

/-- R94: the length byte of an encoded frame, top nibble zero. -/
def lengthByte (n : Nat) : Byte :=
  BitVec.ofNat 8 (n &&& 0x0F)

/-- R91: the upper five bits of the control byte. -/
def flagsOf (control : Byte) : BitVec 5 := control.extractLsb' 3 5

/-- R91: the lower three bits of the control byte. -/
def ulpOf (control : Byte) : BitVec 3 := control.extractLsb' 0 3

/-- R95: the reserved nibble of the length byte. -/
def reservedOf (len : Byte) : BitVec 4 := len.extractLsb' 4 4

/-- R94, R95: the declared length; the reserved nibble is ignored. -/
def declaredLen (len : Byte) : Nat := (len &&& 0x0F).toNat

/-- R98: the length of the frame whose second byte is `len`. -/
def frameLen (len : Byte) : Nat := Config.hdrLen + declaredLen len

/-- R96: the checksum of a frame, over control byte, length byte and payload. -/
def frameCsum (poly init control len : Byte) (payload : List Byte) : Byte :=
  crc8 (control :: len :: payload) poly init

/-- R90: the bytes of a frame with the given header fields; the length nibble is the number of payload bytes. -/
def frameBytes (flags : BitVec 5) (ulp : BitVec 3) (rsv : BitVec 4) (csum : Byte) (payload : List Byte) : List Byte :=
  (flags ++ ulp : BitVec 8) :: (rsv ++ BitVec.ofNat 4 payload.length : BitVec 8) :: csum :: payload

/-- R96, R99: does the checksum byte of a frame with these fields verify, for this hardware's POLY and INIT? -/
def frameVerifies (flags : BitVec 5) (ulp : BitVec 3) (rsv : BitVec 4) (csum : Byte) (payload : List Byte) : Bool :=
  frameCsum Config.poly Config.init (flags ++ ulp) (rsv ++ BitVec.ofNat 4 payload.length) payload == csum

/-- R92: the flags field from its five bits START, ACK, FRAGMENT, FINAL, RETRANSMIT. -/
def flagsOfBits (start ack fragment final retransmit : Bool) : BitVec 5 :=
  BitVec.ofBool start ++ BitVec.ofBool ack ++ BitVec.ofBool fragment ++ BitVec.ofBool final ++ BitVec.ofBool retransmit

end Sys2Proof.Machine
end

