-- ==== Sys2Proof/Machine/Codec.lean ====
section
/-! DEFINITION. The pure functions of the Frame Codec (41_codec.md R140, R144). -/

namespace Sys2Proof.Machine

/-- R140: EncodeFn. -/
def encodeFn (poly init : Byte) (flags ulp : Nat) (payload : List Byte) : Except Exn (List Byte) :=
  if payload.length > Config.maxPayload then .error (.payloadTooLong payload.length)
  else
    let control := controlByte flags ulp
    let lenb := lengthByte payload.length
    .ok (control :: lenb :: frameCsum poly init control lenb payload :: payload)

/-- R144: DecodeFn; first the length of the buffer, then the checksum, and nothing else (R148, R149). -/
def decodeFn (poly init : Byte) : List Byte → Except Exn Packet
  | control :: lenb :: rx :: payload =>
    let comp := frameCsum poly init control lenb payload
    if comp ≠ rx then .error (.checksumMismatch rx comp)
    else .ok { flags := flagsOf control, ulp := ulpOf control, payload := payload, checksum := rx }
  | short => .error (.bufferTooShort short.length)

end Sys2Proof.Machine
end

