-- ==== Sys2Proof/Machine/Flags.lean ====
section
/-! DEFINITION. The packet flags and their named booleans (10_state.md R29, 30_encoding.md R92). There are no arithmetic flags. -/

namespace Sys2Proof.Machine

/-- START in the flags field (R92). -/
def flagStart : BitVec 5 := 0x10

/-- ACK in the flags field (R92). -/
def flagAck : BitVec 5 := 0x08

/-- FRAGMENT in the flags field (R92). -/
def flagFragment : BitVec 5 := 0x04

/-- FINAL in the flags field (R92). -/
def flagFinal : BitVec 5 := 0x02

/-- RETRANSMIT in the flags field (R92). -/
def flagRetransmit : BitVec 5 := 0x01

/-- R29: a named boolean, the flags masked against one constant. -/
def hasFlag (f mask : BitVec 5) : Bool := (f &&& mask) != 0

/-- R29: the five named booleans of a flags value. -/
def namedFlags (f : BitVec 5) : NamedFlags where
  isSof := hasFlag f flagStart
  isAck := hasFlag f flagAck
  isFragment := hasFlag f flagFragment
  isFinal := hasFlag f flagFinal
  isRetransmit := hasFlag f flagRetransmit

end Sys2Proof.Machine
end

