-- ==== Sys2Proof/Machine/FrameCodec.lean ====
section
/-! DEFINITION. The Frame Codec's commands (41_codec.md R141, R145). -/

namespace Sys2Proof.Machine

/-- R141: ENCODE flags, ulp, payload; the frame leaves in the response only. -/
def execEncode (flags ulp : Byte) (payload : List Byte) (s : State) : Host.Outcome State Fault Refusal :=
  match encodeFn s.poly s.init flags.toNat ulp.toNat payload with
  | .error x => .next (raise x s)
  | .ok f => .next (respond (.encoded f) s)

/-- R145: DECODE buffer. -/
def execDecode (buffer : List Byte) (s : State) : Host.Outcome State Fault Refusal :=
  match decodeFn s.poly s.init buffer with
  | .error x => .next (raise x s)
  | .ok p => .next (respond (.packet p (namedFlags p.flags)) s)

end Sys2Proof.Machine
end

