-- ==== Sys2Proof/Machine/StreamReader.lean ====
section
/-! DEFINITION. The Stream Reader: SR_TryRead and RDFRAME (42_stream_reader.md R171, R178). -/

namespace Sys2Proof.Machine

/-- What SR_TryRead returns (R171). -/
inductive SrResult where
  | frame (f : List Byte)
  | pending
  | fault
deriving DecidableEq, Repr

/-- The bytes of a partly received frame (R24). -/
def heldBytes (s : State) : List Byte := memRead s.rxb 0 s.rxCnt.toNat

/-- R171: bytes just read join the held ones. -/
def hold (got : List Byte) (s : State) : State :=
  { s with
    rxb := memWrite s.rxb s.rxCnt.toNat got
    rxCnt := BitVec.ofNat 5 (s.rxCnt.toNat + got.length) }

/-- R174: the length of the frame being received, from the held length byte. -/
def srNeed (s : State) : Nat := frameLen (Memory.read s.rxb 1)

/-- R171, complete: the frame is handed over and nothing stays held. -/
def srComplete (s : State) : SrResult × State :=
  (.frame (memRead s.rxb 0 (srNeed s)), { s with rxCnt := 0 })

/-- R171, phase 2: the payload. -/
def srPayload (s : State) : SrResult × State :=
  if s.rxCnt.toNat < srNeed s then
    match tRead (srNeed s - s.rxCnt.toNat) s with
    | (none, s1) => (.fault, s1)
    | (some got, s1) =>
      let s2 := hold got s1
      if s2.rxCnt.toNat < srNeed s2 then (.pending, s2) else srComplete s2
  else srComplete s

/-- R171: SR_TryRead, phase 1 the header behind the gate of R172, then phase 2. -/
def srTryRead (s : State) : SrResult × State :=
  if s.rxCnt.toNat < Config.hdrLen then
    match tAvail s with
    | none => (.fault, s)
    | some a =>
      if s.rxCnt.toNat + a < Config.hdrLen then (.pending, s)
      else
        match tRead (Config.hdrLen - s.rxCnt.toNat) s with
        | (none, s1) => (.fault, s1)
        | (some got, s1) =>
          let s2 := hold got s1
          if s2.rxCnt.toNat < Config.hdrLen then (.pending, s2) else srPayload s2
  else srPayload s

/-- R178: RDFRAME. -/
def execRdframe (s : State) : Host.Outcome State Fault Refusal :=
  if s.hsState.active then .next (raise (.busy s.hsState) s)
  else
    match srTryRead s with
    | (.fault, s1) => .next (raise .transportFault s1)
    | (.pending, s1) => .next (respond .pending s1)
    | (.frame f, s1) => .next (respond (.received f) s1)

end Sys2Proof.Machine
end

