-- ==== Sys2Proof/Machine/Handshake.lean ====
section
/-! DEFINITION. The Handshake Controller: XSTART, XSEND, XPOLL, XABANDON (43_handshake.md R192 to R201, R211). -/

namespace Sys2Proof.Machine

/-- R192: the encoded frame is stored and the exchange begins. -/
def loadFrame (f : List Byte) (s : State) : State :=
  { s with
    txb := memWrite s.txb 0 f
    txCnt := BitVec.ofNat 5 f.length
    hsState := .sending }

/-- R192: XSTART flags, ulp, payload; Busy before PayloadTooLong (R241). -/
def execXstart (flags ulp : Byte) (payload : List Byte) (s : State) : Host.Outcome State Fault Refusal :=
  if s.hsState.active then .next (raise (.busy s.hsState) s)
  else
    match encodeFn s.poly s.init flags.toNat ulp.toNat payload with
    | .error x => .next (raise x s)
    | .ok f => .next (respond .unit (loadFrame f s))

/-- R193: the frame is written in one TWrite, then NOW is sampled. -/
def sendFrame (f : List Byte) (s : State) : State :=
  match tWrite f s with
  | (false, s1) => faultExchange s1
  | (true, s1) => { s1 with tSend := s1.now, hsState := .awaitingReply }

/-- R193: XSEND. It is enabled only in SENDING; elsewhere nothing changes (R191, log 21). -/
def execXsend (s : State) : Host.Outcome State Fault Refusal :=
  match s.hsState with
  | .sending =>
    if s.txCnt.toNat ≤ Config.bufMax then .next (sendFrame (memRead s.txb 0 s.txCnt.toNat) s)
    else .fault .bufferRange
  | .idle | .awaitingReply | .acked | .nacked | .corrupt | .timedOut | .faulted => .next s

/-- R194: the reply's packet is kept and the ACK flag decides (R197, R198). -/
def acceptReply (p : Packet) (s : State) : State :=
  { s with
    rpFlags := p.flags
    rpUlp := p.ulp
    rpLen := BitVec.ofNat 4 p.payload.length
    rpPay := memWrite s.rpPay 0 p.payload
    rpCsum := p.checksum
    hsState := if hasFlag p.flags flagAck then .acked else .nacked }

/-- R196: a damaged reply. -/
def corruptReply (rx comp : Byte) (s : State) : State :=
  { s with csRx := rx, csCalc := comp, hsState := .corrupt }

/-- R194: the outcome a complete frame decides. A frame from the Stream Reader has at least three bytes, so no other failure of
DecodeFn occurs (R209, log 26). -/
def settleFrame (f : List Byte) (s : State) : State :=
  match decodeFn s.poly s.init f with
  | .ok p => acceptReply p s
  | .error (.checksumMismatch rx comp) => corruptReply rx comp s
  | .error _ => s

/-- R199: the deadline has passed. -/
def timeOut (s : State) : State := { s with hsState := .timedOut }

/-- R194: one poll, deadline first. -/
def pollDeadlineFirst (s : State) : State :=
  if elapsed s > s.timeout then timeOut s
  else
    match srTryRead s with
    | (.fault, s1) => faultExchange s1
    | (.pending, s1) => s1
    | (.frame f, s1) => settleFrame f s1

/-- R211: one poll, frame first. -/
def pollFrameFirst (s : State) : State :=
  match srTryRead s with
  | (.fault, s1) => faultExchange s1
  | (.pending, s1) => if elapsed s > s.timeout then timeOut s1 else s1
  | (.frame f, s1) => settleFrame f s1

/-- One poll of the wait loop, in the machine's POLL_ORDER. -/
def pollOnce (s : State) : State :=
  match s.pollOrder with
  | .deadlineFirst => pollDeadlineFirst s
  | .frameFirst => pollFrameFirst s

/-- R194: XPOLL. It is enabled only in AWAITING_REPLY; elsewhere nothing changes (R191, log 21). -/
def execXpoll (s : State) : Host.Outcome State Fault Refusal :=
  match s.hsState with
  | .awaitingReply => .next (pollOnce s)
  | .idle | .sending | .acked | .nacked | .corrupt | .timedOut | .faulted => .next s

/-- R201: XABANDON. -/
def execXabandon (s : State) : Host.Outcome State Fault Refusal :=
  .next (respond .unit { s with hsState := .idle })

end Sys2Proof.Machine
end

