-- ==== Sys2Proof/Machine/Reserved.lean ====
section
/-! DEFINITION. The reserved command codes: each raises IllegalCommand (30_encoding.md R102, 60_exceptions.md R237). -/

namespace Sys2Proof.Machine

/-- R237: a command with a reserved code. -/
def reservedCommand (code : BitVec 4) (s : State) : Host.Outcome State Fault Refusal :=
  .next (raise (.illegalCommand code) s)

/-- R237, code 0x0. -/
def execIllegal0 (s : State) : Host.Outcome State Fault Refusal := reservedCommand 0x0 s

/-- R237, code 0x7. -/
def execIllegal7 (s : State) : Host.Outcome State Fault Refusal := reservedCommand 0x7 s

/-- R237, code 0xA. -/
def execIllegalA (s : State) : Host.Outcome State Fault Refusal := reservedCommand 0xA s

/-- R237, code 0xB. -/
def execIllegalB (s : State) : Host.Outcome State Fault Refusal := reservedCommand 0xB s

/-- R237, code 0xC. -/
def execIllegalC (s : State) : Host.Outcome State Fault Refusal := reservedCommand 0xC s

/-- R237, code 0xD. -/
def execIllegalD (s : State) : Host.Outcome State Fault Refusal := reservedCommand 0xD s

/-- R237, code 0xE. -/
def execIllegalE (s : State) : Host.Outcome State Fault Refusal := reservedCommand 0xE s

/-- R237, code 0xF. -/
def execIllegalF (s : State) : Host.Outcome State Fault Refusal := reservedCommand 0xF s

end Sys2Proof.Machine
end

