-- ==== Sys2Proof/Machine/Events.lean ====
section
/-! DEFINITION. The environment's steps: T.ARRIVE, T.FAIL, T.REPAIR, TICK, RESET (20_memory.md R66, R67, 60_exceptions.md R250, 70_reset_and_hazards.md R271). -/

namespace Sys2Proof.Machine

/-- R67: bytes join the back of RXQ, one T.ARRIVE each. -/
def arriveBytes (bytes : List Byte) (s : State) : State :=
  { s with rxq := s.rxq ++ bytes }

/-- R250: TICK d. -/
def advanceTime (d : Nat) (s : State) : State :=
  { s with now := wrapTime s.timew (s.now + d) }

/-- R271: RESET. Every register of R41 takes its reset value; configuration, transport and NOW are not touched. -/
def resetBlock (s : State) : State :=
  { s with
    acc := s.init
    txb := []
    txCnt := 0
    rxb := []
    rxCnt := 0
    hsState := .idle
    tSend := 0
    rpFlags := 0
    rpUlp := 0
    rpLen := 0
    rpPay := []
    rpCsum := 0
    csRx := 0
    csCalc := 0
    err := 0
    errInfo := 0 }

/-- The step of the environment. -/
def applyEnv (e : EnvEvent) (s : State) : State :=
  match e with
  | .arrive b => arriveBytes [b] s
  | .fail => { s with tfault := true }
  | .repair => { s with tfault := false }
  | .tick d => advanceTime d s
  | .reset => resetBlock s

end Sys2Proof.Machine
end

