-- ==== Sys2Proof/Machine/Wire.lean ====
section
/-! DEFINITION. The frame rows as steps: the transport delivers a whole frame, so its bytes join RXQ in wire order (20_memory.md R67,
R69; log 6). No register of the block changes (60_exceptions.md R242); the outcome falls at the next XPOLL (43_handshake.md R196 to R198). -/

namespace Sys2Proof.Machine

/-- R90: a frame of any content arrives. -/
def execFrame (flags : BitVec 5) (ulp : BitVec 3) (rsv : BitVec 4) (csum : Byte) (payload : List Byte) (s : State) :
    Host.Outcome State Fault Refusal :=
  .next (arriveBytes (frameBytes flags ulp rsv csum payload) s)

/-- R140: a frame as an encoder produces it arrives. -/
def execFrameEncoded (flags : BitVec 5) (ulp : BitVec 3) (csum : Byte) (payload : List Byte) (s : State) :
    Host.Outcome State Fault Refusal :=
  .next (arriveBytes (frameBytes flags ulp 0 csum payload) s)

/-- R197: a frame with ACK = 1 arrives. -/
def execFrameAck (st g n t : Bool) (ulp : BitVec 3) (rsv : BitVec 4) (csum : Byte) (payload : List Byte) (s : State) :
    Host.Outcome State Fault Refusal :=
  .next (arriveBytes (frameBytes (flagsOfBits st true g n t) ulp rsv csum payload) s)

/-- R198: a frame with ACK = 0 arrives. -/
def execFrameNack (st g n t : Bool) (ulp : BitVec 3) (rsv : BitVec 4) (csum : Byte) (payload : List Byte) (s : State) :
    Host.Outcome State Fault Refusal :=
  .next (arriveBytes (frameBytes (flagsOfBits st false g n t) ulp rsv csum payload) s)

end Sys2Proof.Machine
end

