-- ==== Sys2Proof/Machine/Dispatch.lean ====
section
/-! DEFINITION. One arm per row of the opcode table. -/

namespace Sys2Proof.Machine

def exec (i : Instr) (s : State) : Host.Outcome State Fault Refusal :=
  match i with
  | .crcinit => Sys2Proof.Machine.execCrcinit s
  | .crcbyte b => Sys2Proof.Machine.execCrcbyte b s
  | .crc8 data => Sys2Proof.Machine.execCrc8 data s
  | .encode flags ulp payload => Sys2Proof.Machine.execEncode flags ulp payload s
  | .decode buffer => Sys2Proof.Machine.execDecode buffer s
  | .rdframe => Sys2Proof.Machine.execRdframe s
  | .xstart flags ulp payload => Sys2Proof.Machine.execXstart flags ulp payload s
  | .xabandon => Sys2Proof.Machine.execXabandon s
  | .illegal0 => Sys2Proof.Machine.execIllegal0 s
  | .illegal7 => Sys2Proof.Machine.execIllegal7 s
  | .illegalA => Sys2Proof.Machine.execIllegalA s
  | .illegalB => Sys2Proof.Machine.execIllegalB s
  | .illegalC => Sys2Proof.Machine.execIllegalC s
  | .illegalD => Sys2Proof.Machine.execIllegalD s
  | .illegalE => Sys2Proof.Machine.execIllegalE s
  | .illegalF => Sys2Proof.Machine.execIllegalF s
  | .xsend => Sys2Proof.Machine.execXsend s
  | .xpoll => Sys2Proof.Machine.execXpoll s
  | .frame flags ulp rsv csum payload => Sys2Proof.Machine.execFrame flags ulp rsv csum payload s
  | .frameEncoded flags ulp csum payload => Sys2Proof.Machine.execFrameEncoded flags ulp csum payload s
  | .frameAck st g n t ulp rsv csum payload => Sys2Proof.Machine.execFrameAck st g n t ulp rsv csum payload s
  | .frameNack st g n t ulp rsv csum payload => Sys2Proof.Machine.execFrameNack st g n t ulp rsv csum payload s

end Sys2Proof.Machine
end

