-- ==== Sys2Proof/WellFormed.lean ====
section
/-! DEFINITION. Which instruction terms the hardware can be given: operand ranges (30_encoding.md R101, 93 U12) and the classes of frame (R99, R140). -/

namespace Sys2Proof

/-- An instruction the ports can carry: operands in their ranges, a frame in the class its row stands for. -/
def Instr.wf : Instr → Bool
  | .crcinit => true
  | .crcbyte _ => true
  | .crc8 _ => true
  | .encode _ _ payload => decide (payload.length ≤ Config.payInMax)
  | .decode buffer => decide (buffer.length ≤ Config.bufMax)
  | .rdframe => true
  | .xstart _ _ payload => decide (payload.length ≤ Config.payInMax)
  | .xabandon => true
  | .illegal0 => true
  | .illegal7 => true
  | .illegalA => true
  | .illegalB => true
  | .illegalC => true
  | .illegalD => true
  | .illegalE => true
  | .illegalF => true
  | .xsend => true
  | .xpoll => true
  | .frame f u r c p => decide (p.length ≤ Config.maxPayload) && !Machine.frameVerifies f u r c p
  | .frameEncoded f u c p => decide (p.length ≤ Config.maxPayload) && Machine.frameVerifies f u 0 c p
  | .frameAck s g n t u r c p =>
    decide (p.length ≤ Config.maxPayload) && Machine.frameVerifies (Machine.flagsOfBits s true g n t) u r c p
  | .frameNack s g n t u r c p =>
    decide (p.length ≤ Config.maxPayload) && Machine.frameVerifies (Machine.flagsOfBits s false g n t) u r c p

end Sys2Proof
end

