-- ==== Sys2Proof/Decode.lean ====
section
/-! DEFINITION. Decoding, total on any bytes, and the encoder written from the same tables (30_encoding.md R90, R101, R102, R104). -/

namespace Sys2Proof

/-- A command with no operands. -/
def decodeNone (i : Instr) : List Byte → Decoded
  | [] => .ok i
  | _ :: _ => .error .operandExtra

/-- CRCBYTE's operand: one byte (R101). -/
def decodeByte : List Byte → Decoded
  | [] => .error .operandMissing
  | [b] => .ok (.crcbyte b)
  | _ :: _ :: _ => .error .operandExtra

/-- The operands of ENCODE and XSTART: flags, ulp, then the payload, at most PAY_IN_MAX bytes (R101, U12). -/
def decodePacket (mk : Byte → Byte → List Byte → Instr) : List Byte → Decoded
  | flags :: ulp :: payload =>
    if payload.length ≤ Config.payInMax then .ok (mk flags ulp payload) else .error .payloadOverPort
  | _ => .error .operandMissing

/-- DECODE's operand: at most BUF_MAX bytes (R101, U12). -/
def decodeBuffer (buffer : List Byte) : Decoded :=
  if buffer.length ≤ Config.bufMax then .ok (.decode buffer) else .error .bufferOverPort

/-- R101, R102: the operands of the command with code `code`; the operands of a reserved code are ignored (R237). -/
def decodeCommand (code : BitVec 4) (operands : List Byte) : Decoded :=
  match code.toNat with
  | 0x0 => .ok .illegal0
  | 0x1 => decodeNone .crcinit operands
  | 0x2 => decodeByte operands
  | 0x3 => .ok (.crc8 operands)
  | 0x4 => decodePacket .encode operands
  | 0x5 => decodeBuffer operands
  | 0x6 => decodeNone .rdframe operands
  | 0x7 => .ok .illegal7
  | 0x8 => decodePacket .xstart operands
  | 0x9 => decodeNone .xabandon operands
  | 0xA => .ok .illegalA
  | 0xB => .ok .illegalB
  | 0xC => .ok .illegalC
  | 0xD => .ok .illegalD
  | 0xE => .ok .illegalE
  | _ => .ok .illegalF

/-- R104: the autonomous step that the value of HS_STATE selects, under mask 0x7. -/
def decodeAuto (code : BitVec 3) : Decoded :=
  match code.toNat with
  | 1 => .ok .xsend
  | 2 => .ok .xpoll
  | _ => .error .noStepEnabled

/-- The header and payload of a whole frame: at least three bytes and exactly the declared payload (R98). -/
def splitFrame : List Byte → Except DecodeError (Byte × Byte × Byte × List Byte)
  | control :: len :: csum :: payload =>
    if payload.length = Machine.declaredLen len then .ok (control, len, csum, payload) else .error .notWholeFrame
  | _ => .error .headerMissing

/-- R99: the class of a whole frame on the line, tested in the order checksum, then ACK bit. -/
def classifyFrame (control len csum : Byte) (payload : List Byte) : Instr :=
  let flags := Machine.flagsOf control
  let ulp := Machine.ulpOf control
  let rsv := Machine.reservedOf len
  if !Machine.frameVerifies flags ulp rsv csum payload then .frame flags ulp rsv csum payload
  else
    let bit := flags.getLsbD
    if bit 3 then .frameAck (bit 4) (bit 2) (bit 1) (bit 0) ulp rsv csum payload
    else .frameNack (bit 4) (bit 2) (bit 1) (bit 0) ulp rsv csum payload

/-- R140: a frame an encoder can have produced, reserved nibble zero and checksum right. -/
def encodedFrame (control len csum : Byte) (payload : List Byte) : Decoded :=
  let flags := Machine.flagsOf control
  let ulp := Machine.ulpOf control
  if Machine.reservedOf len = 0 ∧ Machine.frameVerifies flags ulp 0 csum payload = true then
    .ok (.frameEncoded flags ulp csum payload)
  else .error .notEncoded

/-- The decoder. On the command port the first byte carries CMD in bits 3..0, matched under mask 0xF (log 3). -/
def decode : Port → List Byte → Decoded
  | .cmd, [] => .error .noCode
  | .cmd, code :: operands => decodeCommand (code.extractLsb' 0 4) operands
  | .auto, [] => .error .noCode
  | .auto, code :: _ => decodeAuto (code.extractLsb' 0 3)
  | .line, bytes =>
    match splitFrame bytes with
    | .ok (control, len, csum, payload) => .ok (classifyFrame control len csum payload)
    | .error e => .error e
  | .peer, bytes =>
    match splitFrame bytes with
    | .ok (control, len, csum, payload) => encodedFrame control len csum payload
    | .error e => .error e

/-- The encoder: the port an instruction comes in by, and its bytes. -/
def encode : Instr → Port × List Byte
  | .crcinit => (.cmd, [0x01])
  | .crcbyte b => (.cmd, [0x02, b])
  | .crc8 data => (.cmd, 0x03 :: data)
  | .encode flags ulp payload => (.cmd, 0x04 :: flags :: ulp :: payload)
  | .decode buffer => (.cmd, 0x05 :: buffer)
  | .rdframe => (.cmd, [0x06])
  | .xstart flags ulp payload => (.cmd, 0x08 :: flags :: ulp :: payload)
  | .xabandon => (.cmd, [0x09])
  | .illegal0 => (.cmd, [0x00])
  | .illegal7 => (.cmd, [0x07])
  | .illegalA => (.cmd, [0x0A])
  | .illegalB => (.cmd, [0x0B])
  | .illegalC => (.cmd, [0x0C])
  | .illegalD => (.cmd, [0x0D])
  | .illegalE => (.cmd, [0x0E])
  | .illegalF => (.cmd, [0x0F])
  | .xsend => (.auto, [0x01])
  | .xpoll => (.auto, [0x02])
  | .frame f u r c p => (.line, Machine.frameBytes f u r c p)
  | .frameEncoded f u c p => (.peer, Machine.frameBytes f u 0 c p)
  | .frameAck s g n t u r c p => (.line, Machine.frameBytes (Machine.flagsOfBits s true g n t) u r c p)
  | .frameNack s g n t u r c p => (.line, Machine.frameBytes (Machine.flagsOfBits s false g n t) u r c p)

/-- The bytes and port of an instruction given as a word of the opcode table: a CMD row in one byte, a FRAME row in three
(bit 23 is bit 7 of offset 0), an AUTO row in its three bits; operands above the table's bits are zero (log 8). -/
def tableBytes (nbits w : Nat) : Option (Port × List Byte) :=
  if nbits = 24 then
    let len := BitVec.ofNat 8 (w >>> 8)
    some (.line, BitVec.ofNat 8 (w >>> 16) :: len :: BitVec.ofNat 8 w :: List.replicate (Machine.declaredLen len) 0)
  else if nbits = 8 then
    let zeros := match w % 16 with
      | 0x2 => 1
      | 0x4 => 2
      | 0x8 => 2
      | _ => 0
    some (.cmd, BitVec.ofNat 8 w :: List.replicate zeros 0)
  else if nbits = 3 then some (.auto, [BitVec.ofNat 8 w])
  else none

/-- The instruction the decoder reads from a word of the opcode table. -/
def decodeTableWord (nbits w : Nat) : Option Instr :=
  match tableBytes nbits w with
  | none => none
  | some (port, bytes) =>
    match decode port bytes with
    | .ok i => some i
    | .error _ => none

end Sys2Proof
end

