-- ==== Sys2Proof/Machine/Fetch.lean ====
section
/-! DEFINITION. Which step comes next (00_scope.md R7, 10_state.md R26): the head of the agenda, and with an empty agenda the
controller's enabled autonomous step (43_handshake.md R204; log 1). -/

namespace Sys2Proof.Machine

/-- What the next step is. -/
inductive NextItem where
  | instr (i : Instr)
  | env (e : EnvEvent)
  /-- no autonomous step is enabled (R205) -/
  | quiet
  | rejected (e : DecodeError)
deriving DecidableEq, Repr

/-- Bytes at a port. -/
def itemOfBytes (port : Port) (bytes : List Byte) : NextItem :=
  match decode port bytes with
  | .ok i => .instr i
  | .error e => .rejected e

/-- R26, R104: the controller's turn, selected by the code of HS_STATE. -/
def autoItem (s : State) : NextItem :=
  match decode .auto [s.hsState.code.setWidth 8] with
  | .ok i => .instr i
  | .error _ => .quiet

/-- One entry of the agenda. -/
def itemOfEvent (e : Event) (s : State) : NextItem :=
  match e with
  | .cmd bytes => itemOfBytes .cmd bytes
  | .auto => autoItem s
  | .line bytes => itemOfBytes .line bytes
  | .peer bytes => itemOfBytes .peer bytes
  | .env ev => .env ev

/-- The next step and the state it is taken in: the agenda's head is used up. -/
def nextItem (s : State) : NextItem × State :=
  match s.agenda with
  | [] => (autoItem s, s)
  | e :: rest => (itemOfEvent e s, { s with agenda := rest })

/-- The agenda entry that brings bytes in by a port. -/
def eventOf (port : Port) (bytes : List Byte) : Event :=
  match port with
  | .cmd => .cmd bytes
  | .auto => .auto
  | .line => .line bytes
  | .peer => .peer bytes

/-- The state in which the next step takes these bytes from this port: the entry is put first on the agenda, and for an
autonomous step HS_STATE selects it (R104). -/
def presentBytes (port : Port) (bytes : List Byte) (s : State) : State :=
  match port with
  | .auto => { s with agenda := .auto :: s.agenda, hsState := HsState.ofCode ((bytes.headD 0).extractLsb' 0 3) }
  | .cmd | .line | .peer => { s with agenda := eventOf port bytes :: s.agenda }

/-- The state in which the next step fetches the instruction of a table word; unchanged where there is no such word. -/
def presentTableWord (nbits w : Nat) (s : State) : State :=
  match tableBytes nbits w with
  | none => s
  | some (port, bytes) => presentBytes port bytes s

end Sys2Proof.Machine
end

