-- ==== Sys2Proof/Machine/Step.lean ====
section
/-! DEFINITION. One step of the machine (00_scope.md R7) and where the host's table words are placed. -/

namespace Sys2Proof.Machine

/-- One indivisible step of one agent. -/
def step (s : State) : Host.Outcome State Fault Refusal :=
  match nextItem s with
  | (.instr i, s1) => exec i s1
  | (.env e, s1) => .next (applyEnv e s1)
  | (.quiet, s1) => .next s1
  | (.rejected e, _) => .refused (.notCarried e)

/-- `s` with the instruction of a table word as its next step (log 2, log 8). -/
def State.withFetchWord (s : State) (nbits w : Nat) : State := presentTableWord nbits w s

end Sys2Proof.Machine
end

