-- ==== Sys2Proof/Machine/Registers.lean ====
section
/-! DEFINITION. Reading registers by name, which the host may do between operations (10_state.md R32, R33). No command writes a register directly. -/

namespace Sys2Proof.Machine

/-- The registers of R20 and the configuration registers of R32. -/
inductive RegName where
  | ACC | TXB | TX_CNT | RXB | RX_CNT | HS_STATE | T_SEND | RP_FLAGS | RP_ULP | RP_LEN | RP_PAY | RP_CSUM
  | CS_RX | CS_CALC | ERR | ERR_INFO | POLY | INIT | TIMEOUT
deriving DecidableEq, Repr

/-- What the host reads: one number, or the bytes of a buffer as numbers. -/
def hostRead (r : RegName) (s : State) : List Nat :=
  match r with
  | .ACC => [s.acc.toNat]
  | .TXB => (memRead s.txb 0 18).map BitVec.toNat
  | .TX_CNT => [s.txCnt.toNat]
  | .RXB => (memRead s.rxb 0 18).map BitVec.toNat
  | .RX_CNT => [s.rxCnt.toNat]
  | .HS_STATE => [s.hsState.code.toNat]
  | .T_SEND => [s.tSend]
  | .RP_FLAGS => [s.rpFlags.toNat]
  | .RP_ULP => [s.rpUlp.toNat]
  | .RP_LEN => [s.rpLen.toNat]
  | .RP_PAY => (memRead s.rpPay 0 15).map BitVec.toNat
  | .RP_CSUM => [s.rpCsum.toNat]
  | .CS_RX => [s.csRx.toNat]
  | .CS_CALC => [s.csCalc.toNat]
  | .ERR => [s.err.toNat]
  | .ERR_INFO => [s.errInfo.toNat]
  | .POLY => [s.poly.toNat]
  | .INIT => [s.init.toNat]
  | .TIMEOUT => [s.timeout]

end Sys2Proof.Machine
end

