-- ==== Sys2Proof/Safety.lean ====
section
/-! DEFINITION. What claims are stated in: the invariant of every reachable state, complete frames in a byte stream, the transition
table of HS_STATE, and the schedules of the timeout and termination claims. -/

namespace Sys2Proof.Machine

/-- R23: TXB[0..TX_CNT-1] is an encoded frame. -/
structure TxFrameOk (s : State) : Prop where
  low : 3 ≤ s.txCnt.toNat
  high : s.txCnt.toNat ≤ 18
  count : s.txCnt.toNat = frameLen (Memory.read s.txb 1)
  reserved : reservedOf (Memory.read s.txb 1) = 0
  checksum : Memory.read s.txb 2 =
    frameCsum s.poly s.init (Memory.read s.txb 0) (Memory.read s.txb 1) (memRead s.txb 3 (s.txCnt.toNat - 3))

/-- R27, R34, R250: time values fit TIMEW; when TIMEW is unbounded the send time is not in the future. -/
def TimeOk (s : State) : Prop :=
  match s.timew with
  | none => s.tSend ≤ s.now
  | some w => s.now < 2 ^ w ∧ s.tSend < 2 ^ w

/-- R24: no complete frame stays held, so at most 17 bytes are. -/
def RxPartial (s : State) : Prop :=
  s.rxCnt.toNat < 3 ∨ s.rxCnt.toNat < frameLen (Memory.read s.rxb 1)

/-- The invariant every step keeps. -/
structure Inv (s : State) : Prop where
  /-- the buffers are in canonical form and within their capacities (R60, R61, R28) -/
  txbWf : Memory.wf 18 s.txb = true
  rxbWf : Memory.wf 18 s.rxb = true
  rpPayWf : Memory.wf 15 s.rpPay = true
  /-- R23: either nothing has been encoded yet or TXB holds an encoded frame -/
  txFrame : s.txCnt = 0 ∨ TxFrameOk s
  /-- R23: an active exchange has a frame -/
  txLoaded : s.hsState.active = true → s.txCnt ≠ 0
  /-- R24 -/
  rxPartial : RxPartial s
  /-- R30: in CORRUPT the two checksums differ -/
  corruptPair : s.hsState = .corrupt → s.csRx ≠ s.csCalc
  /-- R197: in ACKED the reply's ACK flag is set -/
  ackedFlag : s.hsState = .acked → hasFlag s.rpFlags flagAck = true
  /-- R198: in NACKED it is clear -/
  nackedFlag : s.hsState = .nacked → hasFlag s.rpFlags flagAck = false
  /-- R105: code 5 is never written to ERR -/
  errNotTimeout : s.err ≠ 5
  time : TimeOk s

/-- R98: a byte stream that begins with a complete frame. -/
def startsWithFrame : List Byte → Bool
  | _ :: len :: csum :: rest => decide (frameLen len ≤ (csum :: rest).length + 2)
  | _ => false

/-- The stream the Stream Reader works on: held bytes, then the bytes waiting (R180). -/
def rxStream (s : State) : List Byte := heldBytes s ++ s.rxq

/-- The transport works and no listed answer of it is `fault`. -/
def transportHealthy (s : State) : Bool :=
  !s.tfault && match s.readPolicy with
    | .greedy => true
    | .answers next => next.all fun a => decide (a ≠ .fault)

/-- What caused a step. -/
inductive Cause where
  | xstart | xsend | xpoll | xabandon | reset | other
deriving DecidableEq, Repr

/-- The cause of the next step. -/
def causeOf : NextItem → Cause
  | .instr (.xstart _ _ _) => .xstart
  | .instr .xsend => .xsend
  | .instr .xpoll => .xpoll
  | .instr .xabandon => .xabandon
  | .env .reset => .reset
  | _ => .other

/-- R191: the pairs (from, to) of HS_STATE that a cause may produce, the unchanged state left out. -/
def mayMove (c : Cause) (fromState toState : HsState) : Bool :=
  match c with
  | .xstart => !fromState.active && decide (toState = .sending)
  | .xsend => decide (fromState = .sending) && (decide (toState = .awaitingReply) || decide (toState = .faulted))
  | .xpoll => decide (fromState = .awaitingReply) && toState.terminal
  | .xabandon => decide (toState = .idle)
  | .reset => decide (toState = .idle)
  | .other => false

/-- R20, the column "written by": the registers a step may write. -/
def mayWrite : NextItem → RegName → Bool
  | .instr .crcinit, r => r == .ACC
  | .instr (.crcbyte _), r => r == .ACC
  | .instr (.crc8 _), r => r == .ACC
  | .instr (.encode _ _ _), r => [.ERR, .ERR_INFO].contains r
  | .instr (.decode _), r => [.ERR, .ERR_INFO].contains r
  | .instr .rdframe, r => [.RXB, .RX_CNT, .ERR, .ERR_INFO].contains r
  | .instr (.xstart _ _ _), r => [.TXB, .TX_CNT, .HS_STATE, .ERR, .ERR_INFO].contains r
  | .instr .xabandon, r => r == .HS_STATE
  | .instr .illegal0, r | .instr .illegal7, r | .instr .illegalA, r | .instr .illegalB, r
  | .instr .illegalC, r | .instr .illegalD, r | .instr .illegalE, r | .instr .illegalF, r =>
    [.ERR, .ERR_INFO].contains r
  | .instr .xsend, r => [.HS_STATE, .T_SEND, .ERR, .ERR_INFO].contains r
  | .instr .xpoll, r =>
    [.RXB, .RX_CNT, .HS_STATE, .RP_FLAGS, .RP_ULP, .RP_LEN, .RP_PAY, .RP_CSUM, .CS_RX, .CS_CALC, .ERR, .ERR_INFO].contains r
  | .instr (.frame _ _ _ _ _), _ | .instr (.frameEncoded _ _ _ _), _
  | .instr (.frameAck _ _ _ _ _ _ _ _), _ | .instr (.frameNack _ _ _ _ _ _ _ _), _ => false
  | .env .reset, r => !([.POLY, .INIT, .TIMEOUT].contains r)
  | .env _, _ => false
  | .quiet, _ => false
  | .rejected _, _ => false

/-- R90, R94, R96, R153: the frame of a packet, its control byte as flags * 8 + ulp and its length byte as the payload length. -/
def packetFrame (poly init : Byte) (flags ulp : Nat) (payload : List Byte) : List Byte :=
  let control := BitVec.ofNat 8 (flags % 32 * 8 + ulp % 8)
  let len := BitVec.ofNat 8 payload.length
  control :: len :: crc8 (control :: len :: payload) poly init :: payload

/-- R29, R92: the named booleans as bits 7 to 3 of the control byte. -/
def namedOfControl (control : Byte) : NamedFlags where
  isSof := control.getLsbD 7
  isAck := control.getLsbD 6
  isFragment := control.getLsbD 5
  isFinal := control.getLsbD 4
  isRetransmit := control.getLsbD 3

/-- R144: the packet of a frame whose checksum verifies. -/
def packetOf (control rx : Byte) (payload : List Byte) : Packet where
  flags := BitVec.ofNat 5 (control.toNat / 8)
  ulp := BitVec.ofNat 3 (control.toNat % 8)
  payload := payload
  checksum := rx

/-- The agenda in which time advances by each of `ds` and the controller polls after each (R204). -/
def pollRounds (ds : List Nat) : List Event :=
  ds.flatMap fun d => [.env (.tick d), .auto]

/-- A step of the byte transport. -/
def EnvEvent.ofTransport : EnvEvent → Bool
  | .arrive _ => true
  | .fail => true
  | .repair => true
  | .tick _ => false
  | .reset => false

/-- The agenda of rounds in which the transport takes any steps, time advances, and the controller takes its step. -/
def exchangeRounds (rounds : List (List EnvEvent × Nat)) : List Event :=
  rounds.flatMap fun r => r.1.map Event.env ++ [.env (.tick r.2), .auto]

end Sys2Proof.Machine
end

