-- ==== Sys2Proof/Certificates/Slice0/Obligations.lean ====
section
/-! DEFINITION. The statements about the model, for the provers. -/

open Sys2Proof Sys2Proof.Machine

/-! ### Encodings -/

/-- R90, R101, R102, R104: no bit of an encoding is dropped, for every instruction the ports can carry. -/
def Obligations.DecodeOfEncodeIsTheInstruction : Prop :=
  ∀ i : Instr, i.wf = true → decode (encode i).1 (encode i).2 = .ok i

/-- R90, R98, R99, R140: a frame has one meaning; what is decoded from a frame encodes to the same bytes. -/
def Obligations.FrameDecodingReadsEveryByte : Prop :=
  ∀ (port : Port) (bytes : List Byte) (i : Instr), port = .line ∨ port = .peer →
    decode port bytes = .ok i → encode i = (port, bytes) ∧ i.wf = true

/-- R101, 93 U12: only operands in their ranges come out of the command decoder. -/
def Obligations.DecodedCommandIsWellFormed : Prop :=
  ∀ (bytes : List Byte) (i : Instr), decode .cmd bytes = .ok i → i.wf = true ∧ (encode i).1 = .cmd

/-- R101, R103, R104, R90, R99: words written out from the spec's encodings. -/
def Obligations.TableWordsDecodeToTheirRows : Prop :=
  decode .cmd [0x01] = .ok .crcinit ∧ decode .cmd [0x02, 0x91] = .ok (.crcbyte 0x91) ∧
  decode .cmd [0x04, 0x12, 0x01, 0x48, 0x69] = .ok (.encode 0x12 1 [0x48, 0x69]) ∧
  decode .cmd [0x06] = .ok .rdframe ∧ decode .cmd [0x09] = .ok .xabandon ∧ decode .cmd [0x0A] = .ok .illegalA ∧
  decode .auto [0x01] = .ok .xsend ∧ decode .auto [0x02] = .ok .xpoll ∧
  decode .line [0x41, 0x00, 0x4E] = .ok (.frameAck false false false false 1 0 0x4E []) ∧
  decode .line [0x01, 0x00, 0x15] = .ok (.frameNack false false false false 1 0 0x15 []) ∧
  decode .line [0x41, 0x00, 0x4F] = .ok (.frame 0x08 1 0 0x4F []) ∧
  decode .peer [0x82, 0x01, 0x97, 0xAA] = .ok (.frameEncoded 0x10 2 0x97 [0xAA])

/-- R102, R237: whatever operands follow a reserved code, and whatever stands in the bits the mask leaves out, it decodes to its row. -/
def Obligations.ReservedCodesIgnoreTheirOperands : Prop :=
  ∀ (high : BitVec 4) (operands : List Byte),
    decode .cmd ((high ++ (0x0 : BitVec 4) : BitVec 8) :: operands) = .ok .illegal0 ∧
    decode .cmd ((high ++ (0x7 : BitVec 4) : BitVec 8) :: operands) = .ok .illegal7 ∧
    decode .cmd ((high ++ (0xA : BitVec 4) : BitVec 8) :: operands) = .ok .illegalA ∧
    decode .cmd ((high ++ (0xB : BitVec 4) : BitVec 8) :: operands) = .ok .illegalB ∧
    decode .cmd ((high ++ (0xC : BitVec 4) : BitVec 8) :: operands) = .ok .illegalC ∧
    decode .cmd ((high ++ (0xD : BitVec 4) : BitVec 8) :: operands) = .ok .illegalD ∧
    decode .cmd ((high ++ (0xE : BitVec 4) : BitVec 8) :: operands) = .ok .illegalE ∧
    decode .cmd ((high ++ (0xF : BitVec 4) : BitVec 8) :: operands) = .ok .illegalF

/-! ### The step -/

/-- R7, R76: when the agenda's head holds the bytes of an instruction, the step is that instruction, in the state with the head
used up. -/
def Obligations.StepRunsTheDecodedInstruction : Prop :=
  ∀ (s : State) (bytes : List Byte) (rest : List Event) (i : Instr),
    (s.agenda = .cmd bytes :: rest → decode .cmd bytes = .ok i → step s = exec i { s with agenda := rest }) ∧
    (s.agenda = .line bytes :: rest → decode .line bytes = .ok i → step s = exec i { s with agenda := rest }) ∧
    (s.agenda = .peer bytes :: rest → decode .peer bytes = .ok i → step s = exec i { s with agenda := rest })

/-- R26, R104, R205: HS_STATE alone selects the autonomous step, on the controller's turn and when no agent has anything else to do;
every value but SENDING and AWAITING_REPLY enables none, and then nothing changes. -/
def Obligations.HsStateSelectsTheAutonomousStep : Prop :=
  ∀ (s : State) (rest : List Event),
    (s.agenda = .auto :: rest →
      step s = (if s.hsState = .sending then exec .xsend { s with agenda := rest }
        else if s.hsState = .awaitingReply then exec .xpoll { s with agenda := rest }
        else .next { s with agenda := rest })) ∧
    (s.agenda = [] →
      step s = (if s.hsState = .sending then exec .xsend s
        else if s.hsState = .awaitingReply then exec .xpoll s
        else .next s))

/-- 93 U12: a transaction the command interface cannot carry is refused by name. The model's choice of how (log 5). -/
def Obligations.UncarriedTransactionIsRefused : Prop :=
  ∀ (s : State) (flags ulp : Byte) (payload buffer : List Byte) (rest : List Event),
    (payload.length > 255 → s.agenda = .cmd (0x04 :: flags :: ulp :: payload) :: rest →
      step s = .refused (.notCarried .payloadOverPort)) ∧
    (payload.length > 255 → s.agenda = .cmd (0x08 :: flags :: ulp :: payload) :: rest →
      step s = .refused (.notCarried .payloadOverPort)) ∧
    (buffer.length > 18 → s.agenda = .cmd (0x05 :: buffer) :: rest →
      step s = .refused (.notCarried .bufferOverPort))

/-! ### The Checksum unit -/

/-- R125, laws (a) to (e). -/
def Obligations.Crc8ArithmeticLaws : Prop :=
  (∀ (x y : List Byte) (poly : Byte), x.length = y.length →
    crc8 (List.zipWith (· ^^^ ·) x y) poly 0 = crc8 x poly 0 ^^^ crc8 y poly 0) ∧
  (∀ (x e : List Byte) (poly init : Byte), x.length = e.length →
    crc8 (List.zipWith (· ^^^ ·) x e) poly init = crc8 x poly init ^^^ crc8 e poly 0) ∧
  (∀ (x : List Byte) (poly : Byte), crc8 (0x00 :: x) poly 0 = crc8 x poly 0) ∧
  (∀ poly : Byte, crcByte 0 1 poly = poly) ∧
  (∀ (m : List Byte) (poly init : Byte), crc8 (m ++ [crc8 m poly init]) poly init = 0x00)

/-- R126, R127, R128: the three CRC commands complete, write ACC, respond it, and change nothing else. -/
def Obligations.CrcCommandsWriteAccAndRespondIt : Prop :=
  ∀ (s : State) (b : Byte) (data : List Byte),
    exec .crcinit s = .next { s with acc := s.init, responses := s.responses ++ [.acc s.init] } ∧
    exec (.crcbyte b) s =
      .next { s with acc := crcByte s.acc b s.poly, responses := s.responses ++ [.acc (crcByte s.acc b s.poly)] } ∧
    exec (.crc8 data) s =
      .next { s with acc := crc8 data s.poly s.init, responses := s.responses ++ [.acc (crc8 data s.poly s.init)] }

/-- R129: CRCINIT and one CRCBYTE a byte leave the same ACC as CRC8, run as commands of the host. -/
def Obligations.PiecewiseCrcEqualsWholeCrc : Prop :=
  ∀ (s : State) (d : List Byte) (rest : List Event),
    s.agenda = .cmd [0x01] :: (d.map fun b => .cmd [0x02, b]) ++ rest →
    ∃ t u : State, Host.Core.run Sys2Proof.core (d.length + 1) s = .next t ∧ t.agenda = rest ∧
      exec (.crc8 d) s = .next u ∧ t.acc = u.acc

/-- R131, R152: one changed bit anywhere in an encoded frame makes DecodeFn report ChecksumMismatch, for POLY = 0x07, INIT = 0x00. -/
def Obligations.SingleBitErrorIsDetected : Prop :=
  ∀ (flags ulp : Nat) (payload f : List Byte) (i k : Nat),
    encodeFn 0x07 0x00 flags ulp payload = .ok f → i < f.length → k < 8 →
    ∃ rx comp : Byte,
      decodeFn 0x07 0x00 (f.set i (f.getD i 0 ^^^ BitVec.ofNat 8 (2 ^ k))) = .error (.checksumMismatch rx comp)

/-! ### The Frame Codec -/

/-- R140, R141, R142: ENCODE completes; a payload of at most 15 bytes gives its frame in the response and changes nothing else, a
longer one raises PayloadTooLong with its length and nothing else. -/
def Obligations.EncodeRespondsTheFrame : Prop :=
  ∀ (s : State) (flags ulp : Byte) (payload : List Byte),
    (payload.length ≤ 15 →
      exec (.encode flags ulp payload) s =
        .next { s with responses := s.responses ++ [.encoded (packetFrame s.poly s.init flags.toNat ulp.toNat payload)] }) ∧
    (payload.length > 15 →
      exec (.encode flags ulp payload) s =
        .next { s with err := 2, errInfo := BitVec.ofNat 16 payload.length,
                       responses := s.responses ++ [.fail (.payloadTooLong payload.length)] })

/-- R145, R146, R147, R149: DECODE completes; a short buffer raises BufferTooShort with its length, a wrong checksum raises
ChecksumMismatch with the pair, a right one gives the packet and the five named booleans and changes nothing else. -/
def Obligations.DecodeVerifiesAndResponds : Prop :=
  ∀ (s : State) (buffer : List Byte) (control len rx : Byte) (payload : List Byte),
    (buffer.length < 3 →
      exec (.decode buffer) s =
        .next { s with err := 1, errInfo := BitVec.ofNat 16 buffer.length,
                       responses := s.responses ++ [.fail (.bufferTooShort buffer.length)] }) ∧
    (crc8 (control :: len :: payload) s.poly s.init ≠ rx →
      exec (.decode (control :: len :: rx :: payload)) s =
        .next { s with err := 3
                       errInfo := rx ++ crc8 (control :: len :: payload) s.poly s.init
                       responses := s.responses ++
                         [.fail (.checksumMismatch rx (crc8 (control :: len :: payload) s.poly s.init))] }) ∧
    (crc8 (control :: len :: payload) s.poly s.init = rx →
      exec (.decode (control :: len :: rx :: payload)) s =
        .next { s with responses := s.responses ++ [.packet (packetOf control rx payload) (namedOfControl control)] })

/-- R151: the round trip of packets through the codec, and of frames whose length byte declares their payload. -/
def Obligations.CodecRoundTrip : Prop :=
  (∀ (poly init : Byte) (flags : BitVec 5) (ulp : BitVec 3) (payload : List Byte), payload.length ≤ 15 →
    ∃ (f : List Byte), encodeFn poly init flags.toNat ulp.toNat payload = .ok f ∧
      decodeFn poly init f = .ok { flags := flags, ulp := ulp, payload := payload, checksum := f.getD 2 0 }) ∧
  (∀ (poly init : Byte) (b : List Byte) (p : Packet), 3 ≤ b.length → b.length ≤ 18 →
    (b.getD 1 0).toNat = b.length - 3 → decodeFn poly init b = .ok p →
    encodeFn poly init p.flags.toNat p.ulp.toNat p.payload = .ok b)

/-! ### The transport and the Stream Reader -/

/-- R65: TRead returns the front of the queue, at most n bytes, and what it does not return stays; the reference transport returns all
it may, and the transport may be one that returns any smaller number; once it has failed it answers `fault` and removes nothing. -/
def Obligations.TReadTakesTheFrontOfTheQueue : Prop :=
  (∀ (n : Nat) (s t : State) (answer : Option (List Byte)), tRead n s = (answer, t) →
    (∀ got, answer = some got → got ++ t.rxq = s.rxq ∧ got.length ≤ n) ∧
    (answer = none → t.rxq = s.rxq) ∧
    (s.tfault = true → answer = none) ∧
    (s.tfault = false → s.readPolicy = .greedy → answer = some (s.rxq.take n))) ∧
  (∀ (n k : Nat) (s : State) (more : List ReadAnswer), k ≤ n → s.tfault = false → s.readPolicy = .answers (.upTo k :: more) →
    (tRead n s).1 = some (s.rxq.take k))

/-- R179, R209: every frame the Stream Reader hands over has 3 to 18 bytes and exactly its declared length, and DecodeFn never finds
it too short. -/
def Obligations.ReceivedFrameHasItsDeclaredLength : Prop :=
  ∀ (s t : State) (f : List Byte), srTryRead s = (.frame f, t) →
    3 ≤ f.length ∧ f.length ≤ 18 ∧ f.length = 3 + (f.getD 1 0 &&& 0x0F).toNat ∧
    ∀ n, decodeFn s.poly s.init f ≠ .error (.bufferTooShort n)

/-- R79, R180, R171: the Stream Reader loses, repeats and reorders no byte: what it hands over, then what it holds, then what waits is
the stream as it was; and no complete frame stays held (R24). Said of states that hold a partial frame in a buffer in
canonical form, which every step keeps. -/
def Obligations.StreamReaderLosesNoByte : Prop :=
  ∀ (s t : State) (r : SrResult), Memory.wf 18 s.rxb = true → RxPartial s → srTryRead s = (r, t) →
    rxStream s = (match r with | .frame f => f | .pending => [] | .fault => []) ++ rxStream t ∧
    RxPartial t ∧ Memory.wf 18 t.rxb = true

/-- R178, R236: RDFRAME and XSTART are refused with Busy while an exchange is active, before any other test, and disturb nothing. -/
def Obligations.BusyRefusesRdframeAndXstart : Prop :=
  ∀ (s : State) (flags ulp : Byte) (payload : List Byte), s.hsState = .sending ∨ s.hsState = .awaitingReply →
    exec .rdframe s = .next { s with err := 6, errInfo := s.hsState.code.setWidth 16,
                                     responses := s.responses ++ [.fail (.busy s.hsState)] } ∧
    exec (.xstart flags ulp payload) s =
      .next { s with err := 6, errInfo := s.hsState.code.setWidth 16,
                     responses := s.responses ++ [.fail (.busy s.hsState)] }

/-- R172, R178: with fewer than three bytes held and waiting the gate is closed; RDFRAME responds Pending and reads nothing. -/
def Obligations.RdframeGateClosedRespondsPending : Prop :=
  ∀ s : State, s.hsState.active = false → s.tfault = false → s.rxCnt.toNat + s.rxq.length < 3 →
    exec .rdframe s = .next { s with responses := s.responses ++ [.pending] }

/-- R178, R182, R234: RDFRAME on a failed transport raises TransportFault and changes nothing else. -/
def Obligations.RdframeRaisesTransportFault : Prop :=
  ∀ s : State, s.hsState.active = false → s.tfault = true → RxPartial s →
    exec .rdframe s = .next { s with err := 4, errInfo := 0, responses := s.responses ++ [.fail .transportFault] }

/-- R171, R175, R178: with the reference transport, RDFRAME hands over the first frame of the stream as soon as it is complete, takes
no byte of the next one, and changes no other register. -/
def Obligations.RdframeHandsOverTheFirstFrame : Prop :=
  ∀ s : State, s.hsState.active = false → s.tfault = false → s.readPolicy = .greedy →
    Memory.wf 18 s.rxb = true → RxPartial s → startsWithFrame (rxStream s) = true →
    ∃ t : State, exec .rdframe s = .next t ∧
      t = { s with rxb := t.rxb, rxCnt := 0, rxq := (rxStream s).drop (frameLen ((rxStream s).getD 1 0)),
                   responses := s.responses ++ [.received ((rxStream s).take (frameLen ((rxStream s).getD 1 0)))] }

/-- R178, R238, R20: RDFRAME completes in every state; it writes RXB only behind the held bytes, as many as it took from RXQ, and
besides RX_CNT, RXQ and the transport's own state only ERR and ERR_INFO, and those only when it raises. -/
def Obligations.RdframeFrame : Prop :=
  ∀ s : State, Memory.wf 18 s.rxb = true →
    ∃ t : State, exec .rdframe s = .next t ∧
      t = { s with rxb := t.rxb, rxCnt := t.rxCnt, rxq := t.rxq, readPolicy := t.readPolicy, tfault := t.tfault,
                   choices := t.choices, err := t.err, errInfo := t.errInfo, responses := t.responses } ∧
      (∀ a : Nat, a < s.rxCnt.toNat ∨ s.rxCnt.toNat + (s.rxq.length - t.rxq.length) ≤ a →
        Memory.read t.rxb a = Memory.read s.rxb a) ∧
      ∃ v : Response, t.responses = s.responses ++ [v] ∧
        ((∀ x, v ≠ .fail x) → t.err = s.err ∧ t.errInfo = s.errInfo) ∧
        (∀ x, v = .fail x → t.err = x.code ∧ t.errInfo = x.info ∧ (x = .transportFault ∨ x = .busy s.hsState))

/-! ### The Handshake Controller -/

/-- R192: XSTART in IDLE or a terminal state stores the encoded frame at the front of TXB, sets TX_CNT, enters SENDING, responds ok,
and changes nothing else; bytes of TXB behind the frame stay. -/
def Obligations.XstartStoresTheFrameAndEntersSending : Prop :=
  ∀ (s : State) (flags ulp : Byte) (payload : List Byte), s.hsState.active = false → payload.length ≤ 15 →
    Memory.wf 18 s.txb = true →
    ∃ t : State, exec (.xstart flags ulp payload) s = .next t ∧
      t = { s with txb := t.txb, txCnt := BitVec.ofNat 5 (3 + payload.length), hsState := .sending,
                   responses := s.responses ++ [.unit] } ∧
      memRead t.txb 0 t.txCnt.toNat = packetFrame s.poly s.init flags.toNat ulp.toNat payload ∧
      ∀ a : Nat, 3 + payload.length ≤ a → Memory.read t.txb a = Memory.read s.txb a

/-- R192, R232: XSTART with a payload of more than 15 bytes, no exchange active, raises PayloadTooLong; HS_STATE, TXB and TX_CNT stay. -/
def Obligations.XstartRefusesLongPayload : Prop :=
  ∀ (s : State) (flags ulp : Byte) (payload : List Byte), s.hsState.active = false → payload.length > 15 →
    exec (.xstart flags ulp payload) s =
      .next { s with err := 2, errInfo := BitVec.ofNat 16 payload.length,
                     responses := s.responses ++ [.fail (.payloadTooLong payload.length)] }

/-- R193, R63: XSEND writes the whole frame, stamps the send time and enters AWAITING_REPLY; when the write fails an unspecified front
part of the frame has been sent and the exchange is FAULTED. That part's length is a free value and the choice counter is the model's
own field (log 14, log 15). -/
def Obligations.XsendWritesTheFrame : Prop :=
  ∀ s : State, s.hsState = .sending → s.txCnt.toNat ≤ 18 →
    (s.tfault = false →
      exec .xsend s = .next { s with txlog := s.txlog ++ memRead s.txb 0 s.txCnt.toNat, tSend := s.now,
                                     hsState := .awaitingReply }) ∧
    (s.tfault = true →
      ∃ n : Nat, exec .xsend s =
        .next { s with txlog := s.txlog ++ (memRead s.txb 0 s.txCnt.toNat).take n, choices := s.choices + 1,
                       err := 4, errInfo := 0, hsState := .faulted })

/-- R194, R195, R199: at a poll with elapsed > TIMEOUT and POLL_ORDER deadline_first the exchange is TIMED_OUT and nothing else changes,
the transport not touched. -/
def Obligations.XpollTimesOutAfterTheDeadline : Prop :=
  ∀ s : State, s.hsState = .awaitingReply → s.pollOrder = .deadlineFirst → elapsed s > s.timeout →
    exec .xpoll s = .next { s with hsState := .timedOut }

/-- R194, R172: a poll up to the deadline that finds the gate closed changes nothing, in either poll order. -/
def Obligations.XpollWaitsBehindTheGate : Prop :=
  ∀ s : State, s.hsState = .awaitingReply → elapsed s ≤ s.timeout → s.tfault = false →
    s.rxCnt.toNat + s.rxq.length < 3 → exec .xpoll s = .next s

/-- R200, R234, R241: a poll up to the deadline on a failed transport ends the exchange in FAULTED with ERR = 4 and ERR_INFO = 0; so
does one whose transport fails at any primitive of the read, which keeps the bytes already read (R182). Either poll order. A failure
inside the read is a listed answer of TRead, the model's choice (log 13). -/
def Obligations.XpollReportsTransportFault : Prop :=
  (∀ s : State, s.hsState = .awaitingReply → elapsed s ≤ s.timeout → s.tfault = true → RxPartial s →
    exec .xpoll s = .next { s with err := 4, errInfo := 0, hsState := .faulted }) ∧
  (∀ s t : State, s.hsState = .awaitingReply → elapsed s ≤ s.timeout → srTryRead s = (.fault, t) →
    exec .xpoll s = .next { t with err := 4, errInfo := 0, hsState := .faulted })

/-- R194, R196, R197, R198, R99, R208: with the reference transport, a poll up to the deadline that finds a complete frame at the front
of the stream lets that frame decide: CORRUPT with the pair of checksums when it does not verify, otherwise ACKED or NACKED by
control bit 6 with the packet in RP_*; the bytes behind the frame stay in RXQ, ERR is not written, RP_PAY behind the payload
stays. -/
def Obligations.XpollFrameDecidesTheOutcome : Prop :=
  ∀ (s : State) (control len rx : Byte) (payload more : List Byte), s.hsState = .awaitingReply → elapsed s ≤ s.timeout →
    s.tfault = false → s.readPolicy = .greedy → Memory.wf 18 s.rxb = true → Memory.wf 15 s.rpPay = true → RxPartial s →
    rxStream s = control :: len :: rx :: payload ++ more → payload.length = declaredLen len →
    ∃ t : State, exec .xpoll s = .next t ∧
      (crc8 (control :: len :: payload) s.poly s.init ≠ rx →
        t = { s with rxb := t.rxb, rxCnt := 0, rxq := more, csRx := rx,
                     csCalc := crc8 (control :: len :: payload) s.poly s.init, hsState := .corrupt }) ∧
      (crc8 (control :: len :: payload) s.poly s.init = rx →
        t = { s with rxb := t.rxb, rxCnt := 0, rxq := more,
                     rpFlags := BitVec.ofNat 5 (control.toNat / 8), rpUlp := BitVec.ofNat 3 (control.toNat % 8),
                     rpLen := BitVec.ofNat 4 payload.length, rpPay := t.rpPay, rpCsum := rx,
                     hsState := if control.getLsbD 6 then .acked else .nacked } ∧
        memRead t.rpPay 0 payload.length = payload ∧
        ∀ a : Nat, payload.length ≤ a → Memory.read t.rpPay a = Memory.read s.rpPay a)

/-- R194, R39, R239, R20: XPOLL completes in every state in which it is enabled. It changes no register but those R20 lets it write;
RP_* change only when the outcome is ACKED or NACKED, CS_* only when it is CORRUPT, ERR only when it is FAULTED; it writes RXB only
behind the held bytes, as many as it took from RXQ. -/
def Obligations.XpollFrame : Prop :=
  ∀ s : State, s.hsState = .awaitingReply → Memory.wf 18 s.rxb = true →
    ∃ t : State, exec .xpoll s = .next t ∧
      t = { s with rxb := t.rxb, rxCnt := t.rxCnt, rxq := t.rxq, readPolicy := t.readPolicy, tfault := t.tfault,
                   choices := t.choices, err := t.err, errInfo := t.errInfo, hsState := t.hsState, csRx := t.csRx,
                   csCalc := t.csCalc, rpFlags := t.rpFlags, rpUlp := t.rpUlp, rpLen := t.rpLen, rpPay := t.rpPay,
                   rpCsum := t.rpCsum } ∧
      (t.hsState ≠ .acked → t.hsState ≠ .nacked →
        t.rpFlags = s.rpFlags ∧ t.rpUlp = s.rpUlp ∧ t.rpLen = s.rpLen ∧ t.rpPay = s.rpPay ∧ t.rpCsum = s.rpCsum) ∧
      (t.hsState ≠ .corrupt → t.csRx = s.csRx ∧ t.csCalc = s.csCalc) ∧
      (t.hsState ≠ .faulted → t.err = s.err ∧ t.errInfo = s.errInfo) ∧
      (∀ a : Nat, a < s.rxCnt.toNat ∨ s.rxCnt.toNat + (s.rxq.length - t.rxq.length) ≤ a →
        Memory.read t.rxb a = Memory.read s.rxb a)

/-- R211, R241: XPOLL polls in the order POLL_ORDER says. Up to the deadline the two orders agree. After it deadline_first leaves
everything unread and reports TIMED_OUT; frame_first tests the transport first, FAULTED when it fails (before or inside the read),
then lets a complete frame decide, and reports TIMED_OUT only when none can be read: behind the closed gate nothing is read, and a
short read keeps every byte. -/
def Obligations.PollOrdersDifferOnlyAfterTheDeadline : Prop :=
  (∀ s : State, s.hsState = .awaitingReply →
    (s.pollOrder = .deadlineFirst → exec .xpoll s = .next (pollDeadlineFirst s)) ∧
    (s.pollOrder = .frameFirst → exec .xpoll s = .next (pollFrameFirst s))) ∧
  (∀ s : State, elapsed s ≤ s.timeout → pollDeadlineFirst s = pollFrameFirst s) ∧
  (∀ s : State, elapsed s > s.timeout → pollDeadlineFirst s = { s with hsState := .timedOut }) ∧
  (∀ s : State, elapsed s > s.timeout → s.tfault = true → RxPartial s →
    pollFrameFirst s = { s with err := 4, errInfo := 0, hsState := .faulted }) ∧
  (∀ s t : State, elapsed s > s.timeout → srTryRead s = (.fault, t) →
    pollFrameFirst s = { t with err := 4, errInfo := 0, hsState := .faulted }) ∧
  (∀ s : State, elapsed s > s.timeout → s.tfault = false → s.rxCnt.toNat + s.rxq.length < 3 →
    pollFrameFirst s = { s with hsState := .timedOut }) ∧
  (∀ s : State, elapsed s > s.timeout → transportHealthy s = true → Memory.wf 18 s.rxb = true →
    startsWithFrame (rxStream s) = false →
    ∃ t : State, pollFrameFirst s = t ∧ rxStream t = rxStream s ∧
      t = { s with rxb := t.rxb, rxCnt := t.rxCnt, rxq := t.rxq, readPolicy := t.readPolicy, choices := t.choices,
                   hsState := .timedOut }) ∧
  (∀ (s : State) (control len rx : Byte) (payload more : List Byte), elapsed s > s.timeout → s.tfault = false →
    s.readPolicy = .greedy → Memory.wf 18 s.rxb = true → RxPartial s →
    rxStream s = control :: len :: rx :: payload ++ more → payload.length = declaredLen len →
    (pollFrameFirst s).hsState =
      (if crc8 (control :: len :: payload) s.poly s.init ≠ rx then .corrupt
       else if control.getLsbD 6 then .acked else .nacked))

/-- R201: XABANDON completes in every state, returns HS_STATE to IDLE, responds ok, and changes nothing else. -/
def Obligations.XabandonReturnsToIdle : Prop :=
  ∀ s : State, exec .xabandon s = .next { s with hsState := .idle, responses := s.responses ++ [.unit] }

/-- R191: every change of HS_STATE is in the transition table. -/
def Obligations.HsStateChangesOnlyAsTheTableSays : Prop :=
  ∀ s t : State, step s = .next t →
    t.hsState = s.hsState ∨ mayMove (causeOf (nextItem s).1) s.hsState t.hsState = true

/-- R78, R202, R203: TXLOG grows only by XSEND in SENDING, by bytes of the front of the current frame, and nothing already written
changes. -/
def Obligations.OnlyXsendWritesTheTransport : Prop :=
  ∀ s t : State, step s = .next t →
    t.txlog = s.txlog ∨
    (s.hsState = .sending ∧ (nextItem s).1 = .instr .xsend ∧
      ∃ n : Nat, t.txlog = s.txlog ++ (memRead s.txb 0 s.txCnt.toNat).take n)

/-- R207, R286: if no complete frame ever stands in the stream and the transport works, every poll up to the deadline leaves the
exchange waiting, and the first poll after it reports TIMED_OUT, no earlier than the deadline and no more than one polling interval
`p` late. The polls follow each other at most `p` time units apart. Either poll order; any TIMEW that R286 allows. -/
def Obligations.TimeoutIsReportedWithinOnePollingInterval : Prop :=
  ∀ (s : State) (p : Nat) (ds : List Nat), s.hsState = .awaitingReply → TimeOk s →
    (∀ w, s.timew = some w → s.timeout + p < 2 ^ w) → elapsed s ≤ s.timeout → transportHealthy s = true →
    Memory.wf 18 s.rxb = true → startsWithFrame (rxStream s) = false →
    s.agenda = pollRounds ds → (∀ d ∈ ds, d ≤ p) → s.timeout < elapsed s + ds.sum →
    ∃ (k : Nat) (t : State), Host.Core.run Sys2Proof.core k s = .next t ∧ t.hsState = .timedOut ∧ t.tSend = s.tSend ∧
      s.timeout < elapsed t ∧ elapsed t ≤ s.timeout + p ∧
      ∀ (j : Nat) (u : State), j < k → Host.Core.run Sys2Proof.core j s = .next u → u.hsState = .awaitingReply

/-- R210: every exchange ends. From SENDING, whatever the transport does in each round (bytes arriving, failing, being repaired), if
time advances in every round and the controller takes its step in every round, HS_STATE is terminal within the first TIMEOUT + 2
rounds, provided fewer than 2^TIMEW time units pass. Either poll order; any transport answers. -/
def Obligations.EveryExchangeEnds : Prop :=
  ∀ (s : State) (rounds : List (List EnvEvent × Nat)), s.hsState = .sending → s.txCnt.toNat ≤ 18 →
    (∀ w, s.timew = some w → (rounds.map (·.2)).sum < 2 ^ w) →
    s.agenda = exchangeRounds rounds → (∀ r ∈ rounds, 1 ≤ r.2 ∧ ∀ e ∈ r.1, e.ofTransport = true) →
    s.timeout + 2 ≤ rounds.length →
    ∃ (k : Nat) (t : State), k ≤ (exchangeRounds (rounds.take (s.timeout + 2))).length ∧
      Host.Core.run Sys2Proof.core k s = .next t ∧ t.hsState.terminal = true

/-! ### Exceptions, environment, reset -/

/-- R102, R237: a command with a reserved code raises IllegalCommand with the code and changes nothing else, whatever operands follow
the code and whatever stands in bits 7 to 4 of the code byte. That those bits are outside the mask is the model's choice (log 3). -/
def Obligations.ReservedCodesRaiseIllegalCommand : Prop :=
  ∀ (s : State) (i : Instr) (code high : BitVec 4) (operands : List Byte) (rest : List Event),
    (i, code) ∈ [(Instr.illegal0, (0x0 : BitVec 4)), (.illegal7, 0x7), (.illegalA, 0xA), (.illegalB, 0xB), (.illegalC, 0xC),
      (.illegalD, 0xD), (.illegalE, 0xE), (.illegalF, 0xF)] →
    exec i s = .next { s with err := 7, errInfo := code.setWidth 16,
                              responses := s.responses ++ [.fail (.illegalCommand code)] } ∧
    (s.agenda = .cmd ((high ++ code : BitVec 8) :: operands) :: rest →
      step s = .next { s with agenda := rest, err := 7, errInfo := code.setWidth 16,
                              responses := s.responses ++ [.fail (.illegalCommand code)] })

/-- R238: a command that raises changes ERR, ERR_INFO and the response only, but for RDFRAME's TransportFault, which keeps the bytes
already moved into RXB; ERR and ERR_INFO are those of the exception. -/
def Obligations.RaiseChangesOnlyErrAndErrInfo : Prop :=
  ∀ (i : Instr) (s t : State) (x : Exn), exec i s = .next t → t.responses = s.responses ++ [.fail x] →
    t.err = x.code ∧ t.errInfo = x.info ∧
    (t = { s with err := x.code, errInfo := x.info, responses := s.responses ++ [.fail x] } ∨
      (i = .rdframe ∧ x = .transportFault))

/-- R31, R244, R285: ERR and ERR_INFO change only when a command raises, when an exchange ends FAULTED, or at RESET. -/
def Obligations.ErrIsSticky : Prop :=
  ∀ s t : State, step s = .next t → t.err ≠ s.err ∨ t.errInfo ≠ s.errInfo →
    (∃ x : Exn, t.responses = s.responses ++ [.fail x] ∧ t.err = x.code ∧ t.errInfo = x.info) ∨
    (t.hsState = .faulted ∧ t.err = 4 ∧ t.errInfo = 0) ∨ (nextItem s).1 = .env .reset

/-- R20, R22, R23, R24, R28, R30, R32: a step changes no register but those R20 lists it as a writer of, and never the configuration. -/
def Obligations.StepWritesOnlyItsRegisters : Prop :=
  ∀ (s t : State) (r : RegName), step s = .next t → hostRead r t ≠ hostRead r s → mayWrite (nextItem s).1 r = true

/-- R242, R66, R67, R250: the environment's steps other than RESET change no register; T.ARRIVE appends to RXQ, T.FAIL and T.REPAIR set
and clear TFAULT, TICK adds to NOW modulo 2^TIMEW. -/
def Obligations.EnvironmentStepsChangeNoRegister : Prop :=
  ∀ (s : State) (rest : List Event) (b : Byte) (d : Nat),
    (s.agenda = .env (.arrive b) :: rest → step s = .next { s with agenda := rest, rxq := s.rxq ++ [b] }) ∧
    (s.agenda = .env .fail :: rest → step s = .next { s with agenda := rest, tfault := true }) ∧
    (s.agenda = .env .repair :: rest → step s = .next { s with agenda := rest, tfault := false }) ∧
    (s.agenda = .env (.tick d) :: rest → s.timew = none → step s = .next { s with agenda := rest, now := s.now + d }) ∧
    (∀ w : Nat, s.agenda = .env (.tick d) :: rest → s.timew = some w →
      step s = .next { s with agenda := rest, now := (s.now + d) % 2 ^ w })

/-- R271, R41: RESET puts every register to its reset value and touches neither the configuration, nor the transport, nor NOW. -/
def Obligations.ResetPutsEveryRegisterToItsResetValue : Prop :=
  ∀ (s : State) (rest : List Event), s.agenda = .env .reset :: rest →
    step s = .next { s with
      agenda := rest, acc := s.init, txb := [], txCnt := 0, rxb := [], rxCnt := 0, hsState := .idle, tSend := 0,
      rpFlags := 0, rpUlp := 0, rpLen := 0, rpPay := [], rpCsum := 0, csRx := 0, csCalc := 0, err := 0, errInfo := 0 }

/-- R41, R272, R8: the registers, the configuration and the transport as they are after reset. -/
def Obligations.ResetStateHasTheSpecsValues : Prop :=
  State.reset.hsState = .idle ∧ State.reset.acc = 0x00 ∧ State.reset.txCnt = 0 ∧ State.reset.rxCnt = 0 ∧
  (∀ a, Memory.read State.reset.txb a = 0x00 ∧ Memory.read State.reset.rxb a = 0x00 ∧ Memory.read State.reset.rpPay a = 0x00) ∧
  State.reset.tSend = 0 ∧ State.reset.rpFlags = 0 ∧ State.reset.rpUlp = 0 ∧ State.reset.rpLen = 0 ∧ State.reset.rpCsum = 0 ∧
  State.reset.csRx = 0 ∧ State.reset.csCalc = 0 ∧ State.reset.err = 0 ∧ State.reset.errInfo = 0 ∧
  State.reset.poly = 0x07 ∧ State.reset.init = 0x00 ∧ State.reset.timeout = 5 ∧ State.reset.pollOrder = .deadlineFirst ∧
  State.reset.rxq = [] ∧ State.reset.txlog = [] ∧ State.reset.tfault = false

/-- R24, R23, R30, R197, R198, R105, R27: the invariant holds after reset. -/
def Obligations.InvariantHoldsAtReset : Prop := Machine.Inv State.reset

/-- R23, R24, R30, R105, R197, R198: every step keeps the invariant. -/
def Obligations.StepKeepsTheInvariant : Prop :=
  ∀ s t : State, Machine.Inv s → step s = .next t → Machine.Inv t

/-- R61: under the invariant no step faults: no access leaves a buffer. -/
def Obligations.NoBufferAccessOutOfRange : Prop :=
  ∀ (s : State) (f : Fault), Machine.Inv s → step s ≠ .fault f

/-! ### Frames on the line -/

/-- R67, R69, R242: a frame row delivers its bytes to RXQ in wire order and changes nothing else. That this is what the row does as a
step is the model's reading (log 6). -/
def Obligations.DeliveredFrameJoinsTheQueue : Prop :=
  ∀ (s : State) (flags : BitVec 5) (ulp : BitVec 3) (rsv : BitVec 4) (csum : Byte) (payload : List Byte) (st g n t : Bool),
    exec (.frame flags ulp rsv csum payload) s =
      .next { s with rxq := s.rxq ++ (encode (.frame flags ulp rsv csum payload)).2 } ∧
    exec (.frameEncoded flags ulp csum payload) s =
      .next { s with rxq := s.rxq ++ (encode (.frameEncoded flags ulp csum payload)).2 } ∧
    exec (.frameAck st g n t ulp rsv csum payload) s =
      .next { s with rxq := s.rxq ++ (encode (.frameAck st g n t ulp rsv csum payload)).2 } ∧
    exec (.frameNack st g n t ulp rsv csum payload) s =
      .next { s with rxq := s.rxq ++ (encode (.frameNack st g n t ulp rsv csum payload)).2 }

/-- R28, R30, R99, R196, R197, R198, R289: delivered to a waiting controller with nothing held or queued and the deadline not passed, a
FRAME.ACK row ends the exchange ACKED, a FRAME.NACK row NACKED, a FRAME.ENCODED row ACKED or NACKED by its ACK flag, each with the
frame's packet in RP_*, and a FRAME row (checksum wrong) CORRUPT with the pair of checksums in CS_*. Delivery as one step is the
model's reading (log 6). -/
def Obligations.DeliveredFrameDecidesTheExchange : Prop :=
  ∀ (s t : State) (i : Instr), s.hsState = .awaitingReply → elapsed s ≤ s.timeout → s.tfault = false →
    s.readPolicy = .greedy → s.poly = 0x07 → s.init = 0x00 → s.rxCnt = 0 → s.rxq = [] → Memory.wf 18 s.rxb = true →
    Memory.wf 15 s.rpPay = true → i.wf = true → (encode i).1 = .line ∨ (encode i).1 = .peer → exec i s = .next t →
    ∃ u : State, exec .xpoll t = .next u ∧ u.rxq = [] ∧ u.rxCnt = 0 ∧
      (∀ flags ulp rsv csum payload, i = .frame flags ulp rsv csum payload →
        u.hsState = .corrupt ∧ u.csRx = csum ∧
        u.csCalc = crc8 ((flags ++ ulp : BitVec 8) :: (rsv ++ BitVec.ofNat 4 payload.length : BitVec 8) :: payload) 0x07 0x00) ∧
      (∀ flags ulp csum payload, i = .frameEncoded flags ulp csum payload →
        u.hsState = (if flags.getLsbD 3 then .acked else .nacked) ∧ u.rpFlags = flags ∧ u.rpUlp = ulp ∧
        u.rpLen.toNat = payload.length ∧ memRead u.rpPay 0 payload.length = payload ∧ u.rpCsum = csum) ∧
      (∀ (st g n t : Bool) ulp rsv csum payload, i = .frameAck st g n t ulp rsv csum payload →
        u.hsState = .acked ∧ u.rpFlags = BitVec.ofNat 5 (16 * st.toNat + 8 + 4 * g.toNat + 2 * n.toNat + t.toNat) ∧ u.rpUlp = ulp ∧
        u.rpLen.toNat = payload.length ∧ memRead u.rpPay 0 payload.length = payload ∧ u.rpCsum = csum) ∧
      (∀ (st g n t : Bool) ulp rsv csum payload, i = .frameNack st g n t ulp rsv csum payload →
        u.hsState = .nacked ∧ u.rpFlags = BitVec.ofNat 5 (16 * st.toNat + 4 * g.toNat + 2 * n.toNat + t.toNat) ∧ u.rpUlp = ulp ∧
        u.rpLen.toNat = payload.length ∧ memRead u.rpPay 0 payload.length = payload ∧ u.rpCsum = csum)

/-! ### Incomplete reads -/

/-- R176, R178, R180: RDFRAME's response says what left the stream. Without a complete frame held or waiting and with a working
transport it responds Pending, whichever of R176's three causes it is, and changes no register but RXB and RX_CNT. With any transport,
Pending and TransportFault leave the stream of held and waiting bytes as it was, and a frame responded is what its front lost. -/
def Obligations.RdframeResponseTellsWhatLeftTheStream : Prop :=
  (∀ s : State, s.hsState.active = false → transportHealthy s = true → Memory.wf 18 s.rxb = true →
    startsWithFrame (rxStream s) = false →
    ∃ t : State, exec .rdframe s = .next t ∧ rxStream t = rxStream s ∧ RxPartial t ∧
      t = { s with rxb := t.rxb, rxCnt := t.rxCnt, rxq := t.rxq, readPolicy := t.readPolicy, choices := t.choices,
                   responses := s.responses ++ [.pending] }) ∧
  (∀ s : State, s.hsState.active = false → Memory.wf 18 s.rxb = true → RxPartial s →
    ∃ t : State, exec .rdframe s = .next t ∧ RxPartial t ∧
      ((t.responses = s.responses ++ [.pending] ∧ rxStream t = rxStream s) ∨
       (t.responses = s.responses ++ [.fail .transportFault] ∧ rxStream t = rxStream s) ∨
       ∃ f, t.responses = s.responses ++ [.received f] ∧ f ++ rxStream t = rxStream s ∧ t.rxCnt = 0))

/-- R176, R180, R194, R199: a poll up to the deadline that finds no complete frame held or waiting, with a working transport, leaves the
exchange waiting, whichever of R176's three causes it is, and changes no register but RXB and RX_CNT. Any poll that ends neither
ACKED nor NACKED nor CORRUPT leaves the stream of held and waiting bytes as it was. Either poll order. -/
def Obligations.XpollPendingKeepsTheStream : Prop :=
  (∀ s : State, s.hsState = .awaitingReply → elapsed s ≤ s.timeout → transportHealthy s = true →
    Memory.wf 18 s.rxb = true → startsWithFrame (rxStream s) = false →
    ∃ t : State, exec .xpoll s = .next t ∧ rxStream t = rxStream s ∧ RxPartial t ∧
      t = { s with rxb := t.rxb, rxCnt := t.rxCnt, rxq := t.rxq, readPolicy := t.readPolicy, choices := t.choices }) ∧
  (∀ s : State, s.hsState = .awaitingReply → Memory.wf 18 s.rxb = true → RxPartial s →
    ∃ t : State, exec .xpoll s = .next t ∧ RxPartial t ∧
      (t.hsState ≠ .acked → t.hsState ≠ .nacked → t.hsState ≠ .corrupt → rxStream t = rxStream s))
end

