-- ==== Sys2Proof/Laws/Crc.lean ====
section
/-! SUPPORT. Unfolding lemmas of crc8 and the linearity of the byte step. -/

namespace Sys2Proof.Machine

@[simp] theorem crc8_nil (poly init : Byte) : crc8 [] poly init = init := rfl

@[simp] theorem crc8_cons (b : Byte) (d : List Byte) (poly init : Byte) :
    crc8 (b :: d) poly init = crc8 d poly (crcByte init b poly) := rfl

/-- R124: the function can be computed piecewise. -/
theorem crc8_append (a b : List Byte) (poly init : Byte) :
    crc8 (a ++ b) poly init = crc8 b poly (crc8 a poly init) := by
  simp [crc8, List.foldl_append]

/-- The bit step is linear in the accumulator. -/
theorem crcBit_xor (a b poly : Byte) : crcBit (a ^^^ b) poly = crcBit a poly ^^^ crcBit b poly := by
  simp only [crcBit, BitVec.getLsbD_xor]
  cases a.getLsbD 7 <;> cases b.getLsbD 7 <;>
    simp only [Bool.xor_true, Bool.xor_false, Bool.not_true, Bool.not_false, BitVec.shiftLeft_xor_distrib, if_true, if_false,
      Bool.false_eq_true]
  · rw [BitVec.xor_assoc]
  · rw [BitVec.xor_assoc, BitVec.xor_assoc, BitVec.xor_comm poly (b <<< 1)]
  · rw [BitVec.xor_assoc (a <<< 1) poly, ← BitVec.xor_assoc poly (b <<< 1) poly, BitVec.xor_comm poly (b <<< 1),
      BitVec.xor_assoc (b <<< 1) poly poly, BitVec.xor_self, BitVec.xor_zero]

/-- The byte step is linear in accumulator and byte together. -/
theorem crcByte_xor (a a' b b' poly : Byte) :
    crcByte (a ^^^ a') (b ^^^ b') poly = crcByte a b poly ^^^ crcByte a' b' poly := by
  have h : (a ^^^ a') ^^^ (b ^^^ b') = (a ^^^ b) ^^^ (a' ^^^ b') := by
    rw [BitVec.xor_assoc, BitVec.xor_assoc, ← BitVec.xor_assoc a' b b', BitVec.xor_comm a' b, BitVec.xor_assoc b a' b']
  simp only [crcByte, h, crcBit_xor]

/-- For POLY = 0x07 the byte step sends only zero to zero. -/
theorem crcByte_zero_of_poly07 : ∀ x : Byte, crcByte x 0 0x07 = 0 → x = 0 := by decide +kernel

/-- For POLY = 0x07 the rest of a message keeps two accumulators apart. -/
theorem crc8_poly07_injective {d : List Byte} {a a' : Byte} (h : crc8 d 0x07 a = crc8 d 0x07 a') : a = a' := by
  induction d generalizing a a' with
  | nil => exact h
  | cons b rest ih =>
    have h1 : crcByte a b 0x07 = crcByte a' b 0x07 := ih h
    have h2 : crcByte (a ^^^ a') 0 0x07 = 0 := by
      have h3 := crcByte_xor a a' b b 0x07
      rw [BitVec.xor_self, h1, BitVec.xor_self] at h3
      exact h3
    have h4 := crcByte_zero_of_poly07 _ h2
    exact BitVec.xor_eq_zero_iff.mp h4

end Sys2Proof.Machine
end

