-- ==== Sys2Proof/Laws/Memory.lean ====
section
/-! SUPPORT. The frame buffers: every operation keeps the canonical form, a read after a write gives what was written, and a write
leaves every other byte alone. -/

namespace Sys2Proof.Machine

@[simp] theorem Memory.read_nil (a : Nat) : Memory.read [] a = Config.unlistedByte := rfl

/-- Below the first listed offset a buffer reads the unlisted byte. -/
theorem Memory.read_below {cap lo a : Nat} {m : Memory} (h : Memory.wfFrom cap lo m = true) (ha : a < lo) :
    Memory.read m a = Config.unlistedByte := by
  induction m generalizing lo with
  | nil => rfl
  | cons c rest ih =>
    obtain ⟨k, v⟩ := c
    simp only [Memory.wfFrom, Bool.and_eq_true, decide_eq_true_eq] at h
    simp only [Memory.read]
    rw [if_neg (by omega)]
    exact ih h.2 (by omega)

/-- A smaller starting offset is still one. -/
theorem Memory.wfFrom_mono {cap lo lo' : Nat} {m : Memory} (h : Memory.wfFrom cap lo m = true) (hl : lo' ≤ lo) :
    Memory.wfFrom cap lo' m = true := by
  cases m with
  | nil => rfl
  | cons c rest =>
    simp only [Memory.wfFrom, Bool.and_eq_true, decide_eq_true_eq] at h ⊢
    exact ⟨⟨⟨by omega, h.1.1.2⟩, h.1.2⟩, h.2⟩

/-- Writing one byte keeps the canonical form. -/
theorem Memory.write_wfFrom {cap lo a : Nat} {m : Memory} {b : Byte} (h : Memory.wfFrom cap lo m = true)
    (hlo : lo ≤ a) (hcap : a < cap) : Memory.wfFrom cap lo (Memory.write m a b) = true := by
  induction m generalizing lo with
  | nil =>
    simp only [Memory.write]
    split <;> simp_all [Memory.wfFrom]
  | cons c rest ih =>
    obtain ⟨k, v⟩ := c
    have h' := h
    simp only [Memory.wfFrom, Bool.and_eq_true, decide_eq_true_eq] at h
    obtain ⟨⟨⟨h1, h2⟩, h3⟩, h4⟩ := h
    simp only [Memory.write]
    split
    · split
      · exact h'
      · rename_i hak hb
        simp only [Memory.wfFrom, Bool.and_eq_true, decide_eq_true_eq]
        exact ⟨⟨⟨hlo, hcap⟩, hb⟩, ⟨⟨⟨hak, h2⟩, h3⟩, h4⟩⟩
    · split
      · subst a
        split
        · exact Memory.wfFrom_mono h4 (by omega)
        · rename_i hb
          simp only [Memory.wfFrom, Bool.and_eq_true, decide_eq_true_eq]
          exact ⟨⟨⟨h1, h2⟩, hb⟩, h4⟩
      · simp only [Memory.wfFrom, Bool.and_eq_true, decide_eq_true_eq]
        exact ⟨⟨⟨h1, h2⟩, h3⟩, ih h4 (by omega)⟩

/-- Reading after writing one byte. -/
theorem Memory.read_write {cap lo a : Nat} {m : Memory} {b : Byte} (h : Memory.wfFrom cap lo m = true) (a' : Nat) :
    Memory.read (Memory.write m a b) a' = if a' = a then b else Memory.read m a' := by
  induction m generalizing lo with
  | nil =>
    simp only [Memory.write]
    split
    · rename_i hb; simp only [Memory.read, hb, ite_self]
    · simp only [Memory.read, eq_comm]
  | cons c rest ih =>
    obtain ⟨k, v⟩ := c
    have h' := h
    simp only [Memory.wfFrom, Bool.and_eq_true, decide_eq_true_eq] at h
    obtain ⟨-, h4⟩ := h
    simp only [Memory.write]
    split
    · rename_i hak
      have hz : Memory.read ((k, v) :: rest) a = Config.unlistedByte :=
        Memory.read_below (cap := cap) (lo := k)
          (by simp only [Memory.wfFrom, Bool.and_eq_true, decide_eq_true_eq] at h' ⊢
              exact ⟨⟨⟨Nat.le_refl k, h'.1.1.2⟩, h'.1.2⟩, h'.2⟩) hak
      split
      · rename_i hb
        split
        · rename_i he; rw [he, hz, hb]
        · rfl
      · show (if a = a' then b else Memory.read ((k, v) :: rest) a') = _
        by_cases he : a = a'
        · simp [he]
        · rw [if_neg he, if_neg (fun e => he e.symm)]
    · split
      · rename_i hak
        subst hak
        have hz : Memory.read rest a = Config.unlistedByte := Memory.read_below h4 (by omega)
        split
        · rename_i hb
          by_cases he : a' = a
          · rw [if_pos he, he, hz, hb]
          · rw [if_neg he]
            simp only [Memory.read]
            rw [if_neg (fun e => he e.symm)]
        · simp only [Memory.read]
          by_cases he : a = a'
          · simp [he]
          · rw [if_neg he, if_neg (fun e => he e.symm), if_neg he]
      · rename_i hlt hne
        simp only [Memory.read]
        by_cases hk : k = a'
        · rw [if_pos hk, if_neg (by omega)]
          simp [hk]
        · rw [if_neg hk, if_neg hk]
          exact ih h4

/-- Writing a run of bytes keeps the canonical form. -/
theorem memWrite_wf {cap : Nat} {m : Memory} {addr : Nat} {v : List Byte} (h : Memory.wf cap m = true)
    (hcap : addr + v.length ≤ cap) : Memory.wf cap (memWrite m addr v) = true := by
  induction v generalizing m addr with
  | nil => exact h
  | cons b rest ih =>
    simp only [List.length_cons] at hcap
    exact ih (Memory.write_wfFrom h (Nat.zero_le _) (by omega)) (by omega)

/-- Reading after writing a run of bytes. -/
theorem read_memWrite {cap : Nat} {m : Memory} {addr : Nat} {v : List Byte} (h : Memory.wf cap m = true)
    (hcap : addr + v.length ≤ cap) (a : Nat) :
    Memory.read (memWrite m addr v) a =
      if addr ≤ a ∧ a < addr + v.length then v.getD (a - addr) 0 else Memory.read m a := by
  induction v generalizing m addr with
  | nil => simp only [memWrite, List.length_nil]; rw [if_neg (by omega)]
  | cons b rest ih =>
    simp only [List.length_cons] at hcap
    simp only [memWrite]
    rw [ih (Memory.write_wfFrom h (Nat.zero_le _) (by omega)) (by omega), Memory.read_write h]
    simp only [List.length_cons]
    by_cases h1 : a = addr
    · subst h1
      rw [if_neg (by omega), if_pos rfl, if_pos ⟨by omega, by omega⟩]
      simp
    · by_cases h2 : addr + 1 ≤ a ∧ a < addr + 1 + rest.length
      · rw [if_pos h2, if_pos ⟨by omega, by omega⟩]
        obtain ⟨n, hn⟩ : ∃ n, a - addr = n + 1 := ⟨a - addr - 1, by omega⟩
        rw [hn, List.getD_cons_succ]
        congr 1
        omega
      · rw [if_neg h2, if_neg h1, if_neg (by omega)]

@[simp] theorem memRead_length (m : Memory) (addr n : Nat) : (memRead m addr n).length = n := by
  simp [memRead]

/-- The i-th byte of a read run. -/
theorem memRead_getD {m : Memory} {addr n i : Nat} (h : i < n) : (memRead m addr n).getD i 0 = Memory.read m (addr + i) := by
  simp [memRead, List.getD_eq_getElem?_getD, h]

/-- Two runs in a row are one run. -/
theorem memRead_add (m : Memory) (addr n k : Nat) :
    memRead m addr (n + k) = memRead m addr n ++ memRead m (addr + n) k := by
  simp [memRead, List.range_add, List.map_append, List.map_map, Function.comp_def, Nat.add_assoc]

/-- A run that a write does not touch reads as before, and the run written reads as written. -/
theorem memRead_memWrite_before {cap : Nat} {m : Memory} {addr lo n : Nat} {v : List Byte} (h : Memory.wf cap m = true)
    (hcap : addr + v.length ≤ cap) (hb : lo + n ≤ addr) : memRead (memWrite m addr v) lo n = memRead m lo n := by
  simp only [memRead]
  apply List.map_congr_left
  intro i hi
  rw [List.mem_range] at hi
  rw [read_memWrite h hcap, if_neg (by omega)]

theorem memRead_memWrite_same {cap : Nat} {m : Memory} {addr : Nat} {v : List Byte} (h : Memory.wf cap m = true)
    (hcap : addr + v.length ≤ cap) : memRead (memWrite m addr v) addr v.length = v := by
  apply List.ext_getElem (by simp)
  intro i h1 h2
  simp only [memRead, List.getElem_map, List.getElem_range]
  rw [read_memWrite h hcap, if_pos ⟨by omega, by omega⟩]
  simp [List.getD_eq_getElem?_getD, h2]

/-- After reset every buffer has the canonical form. -/
theorem reset_buffers_wf :
    Memory.wf 18 State.reset.txb = true ∧ Memory.wf 18 State.reset.rxb = true ∧ Memory.wf 15 State.reset.rpPay = true := ⟨rfl, rfl, rfl⟩

end Sys2Proof.Machine
end

