-- ==== Sys2Proof/Laws/State.lean ====
section
/-! SUPPORT. One lemma per field of State for each shared update, so that no proof unfolds a record update. -/

namespace Sys2Proof.Machine

variable (s : State)

/-! ### respond -/

@[simp] theorem respond_acc (v : Response) : (respond v s).acc = s.acc := rfl
@[simp] theorem respond_txb (v : Response) : (respond v s).txb = s.txb := rfl
@[simp] theorem respond_txCnt (v : Response) : (respond v s).txCnt = s.txCnt := rfl
@[simp] theorem respond_rxb (v : Response) : (respond v s).rxb = s.rxb := rfl
@[simp] theorem respond_rxCnt (v : Response) : (respond v s).rxCnt = s.rxCnt := rfl
@[simp] theorem respond_hsState (v : Response) : (respond v s).hsState = s.hsState := rfl
@[simp] theorem respond_tSend (v : Response) : (respond v s).tSend = s.tSend := rfl
@[simp] theorem respond_rpFlags (v : Response) : (respond v s).rpFlags = s.rpFlags := rfl
@[simp] theorem respond_rpUlp (v : Response) : (respond v s).rpUlp = s.rpUlp := rfl
@[simp] theorem respond_rpLen (v : Response) : (respond v s).rpLen = s.rpLen := rfl
@[simp] theorem respond_rpPay (v : Response) : (respond v s).rpPay = s.rpPay := rfl
@[simp] theorem respond_rpCsum (v : Response) : (respond v s).rpCsum = s.rpCsum := rfl
@[simp] theorem respond_csRx (v : Response) : (respond v s).csRx = s.csRx := rfl
@[simp] theorem respond_csCalc (v : Response) : (respond v s).csCalc = s.csCalc := rfl
@[simp] theorem respond_err (v : Response) : (respond v s).err = s.err := rfl
@[simp] theorem respond_errInfo (v : Response) : (respond v s).errInfo = s.errInfo := rfl
@[simp] theorem respond_poly (v : Response) : (respond v s).poly = s.poly := rfl
@[simp] theorem respond_init (v : Response) : (respond v s).init = s.init := rfl
@[simp] theorem respond_timeout (v : Response) : (respond v s).timeout = s.timeout := rfl
@[simp] theorem respond_timew (v : Response) : (respond v s).timew = s.timew := rfl
@[simp] theorem respond_pollOrder (v : Response) : (respond v s).pollOrder = s.pollOrder := rfl
@[simp] theorem respond_readPolicy (v : Response) : (respond v s).readPolicy = s.readPolicy := rfl
@[simp] theorem respond_now (v : Response) : (respond v s).now = s.now := rfl
@[simp] theorem respond_rxq (v : Response) : (respond v s).rxq = s.rxq := rfl
@[simp] theorem respond_txlog (v : Response) : (respond v s).txlog = s.txlog := rfl
@[simp] theorem respond_tfault (v : Response) : (respond v s).tfault = s.tfault := rfl
@[simp] theorem respond_agenda (v : Response) : (respond v s).agenda = s.agenda := rfl
@[simp] theorem respond_responses (v : Response) : (respond v s).responses = s.responses ++ [v] := rfl
@[simp] theorem respond_choices (v : Response) : (respond v s).choices = s.choices := rfl

/-! ### raise -/

@[simp] theorem raise_acc (x : Exn) : (raise x s).acc = s.acc := rfl
@[simp] theorem raise_txb (x : Exn) : (raise x s).txb = s.txb := rfl
@[simp] theorem raise_txCnt (x : Exn) : (raise x s).txCnt = s.txCnt := rfl
@[simp] theorem raise_rxb (x : Exn) : (raise x s).rxb = s.rxb := rfl
@[simp] theorem raise_rxCnt (x : Exn) : (raise x s).rxCnt = s.rxCnt := rfl
@[simp] theorem raise_hsState (x : Exn) : (raise x s).hsState = s.hsState := rfl
@[simp] theorem raise_tSend (x : Exn) : (raise x s).tSend = s.tSend := rfl
@[simp] theorem raise_rpFlags (x : Exn) : (raise x s).rpFlags = s.rpFlags := rfl
@[simp] theorem raise_rpUlp (x : Exn) : (raise x s).rpUlp = s.rpUlp := rfl
@[simp] theorem raise_rpLen (x : Exn) : (raise x s).rpLen = s.rpLen := rfl
@[simp] theorem raise_rpPay (x : Exn) : (raise x s).rpPay = s.rpPay := rfl
@[simp] theorem raise_rpCsum (x : Exn) : (raise x s).rpCsum = s.rpCsum := rfl
@[simp] theorem raise_csRx (x : Exn) : (raise x s).csRx = s.csRx := rfl
@[simp] theorem raise_csCalc (x : Exn) : (raise x s).csCalc = s.csCalc := rfl
@[simp] theorem raise_err (x : Exn) : (raise x s).err = x.code := rfl
@[simp] theorem raise_errInfo (x : Exn) : (raise x s).errInfo = x.info := rfl
@[simp] theorem raise_poly (x : Exn) : (raise x s).poly = s.poly := rfl
@[simp] theorem raise_init (x : Exn) : (raise x s).init = s.init := rfl
@[simp] theorem raise_timeout (x : Exn) : (raise x s).timeout = s.timeout := rfl
@[simp] theorem raise_timew (x : Exn) : (raise x s).timew = s.timew := rfl
@[simp] theorem raise_pollOrder (x : Exn) : (raise x s).pollOrder = s.pollOrder := rfl
@[simp] theorem raise_readPolicy (x : Exn) : (raise x s).readPolicy = s.readPolicy := rfl
@[simp] theorem raise_now (x : Exn) : (raise x s).now = s.now := rfl
@[simp] theorem raise_rxq (x : Exn) : (raise x s).rxq = s.rxq := rfl
@[simp] theorem raise_txlog (x : Exn) : (raise x s).txlog = s.txlog := rfl
@[simp] theorem raise_tfault (x : Exn) : (raise x s).tfault = s.tfault := rfl
@[simp] theorem raise_agenda (x : Exn) : (raise x s).agenda = s.agenda := rfl
@[simp] theorem raise_responses (x : Exn) : (raise x s).responses = s.responses ++ [.fail x] := rfl
@[simp] theorem raise_choices (x : Exn) : (raise x s).choices = s.choices := rfl

/-! ### faultExchange -/

@[simp] theorem faultExchange_acc : (faultExchange s).acc = s.acc := rfl
@[simp] theorem faultExchange_txb : (faultExchange s).txb = s.txb := rfl
@[simp] theorem faultExchange_txCnt : (faultExchange s).txCnt = s.txCnt := rfl
@[simp] theorem faultExchange_rxb : (faultExchange s).rxb = s.rxb := rfl
@[simp] theorem faultExchange_rxCnt : (faultExchange s).rxCnt = s.rxCnt := rfl
@[simp] theorem faultExchange_hsState : (faultExchange s).hsState = .faulted := rfl
@[simp] theorem faultExchange_tSend : (faultExchange s).tSend = s.tSend := rfl
@[simp] theorem faultExchange_rpFlags : (faultExchange s).rpFlags = s.rpFlags := rfl
@[simp] theorem faultExchange_rpUlp : (faultExchange s).rpUlp = s.rpUlp := rfl
@[simp] theorem faultExchange_rpLen : (faultExchange s).rpLen = s.rpLen := rfl
@[simp] theorem faultExchange_rpPay : (faultExchange s).rpPay = s.rpPay := rfl
@[simp] theorem faultExchange_rpCsum : (faultExchange s).rpCsum = s.rpCsum := rfl
@[simp] theorem faultExchange_csRx : (faultExchange s).csRx = s.csRx := rfl
@[simp] theorem faultExchange_csCalc : (faultExchange s).csCalc = s.csCalc := rfl
@[simp] theorem faultExchange_err : (faultExchange s).err = 4 := rfl
@[simp] theorem faultExchange_errInfo : (faultExchange s).errInfo = 0 := rfl
@[simp] theorem faultExchange_poly : (faultExchange s).poly = s.poly := rfl
@[simp] theorem faultExchange_init : (faultExchange s).init = s.init := rfl
@[simp] theorem faultExchange_timeout : (faultExchange s).timeout = s.timeout := rfl
@[simp] theorem faultExchange_timew : (faultExchange s).timew = s.timew := rfl
@[simp] theorem faultExchange_pollOrder : (faultExchange s).pollOrder = s.pollOrder := rfl
@[simp] theorem faultExchange_readPolicy : (faultExchange s).readPolicy = s.readPolicy := rfl
@[simp] theorem faultExchange_now : (faultExchange s).now = s.now := rfl
@[simp] theorem faultExchange_rxq : (faultExchange s).rxq = s.rxq := rfl
@[simp] theorem faultExchange_txlog : (faultExchange s).txlog = s.txlog := rfl
@[simp] theorem faultExchange_tfault : (faultExchange s).tfault = s.tfault := rfl
@[simp] theorem faultExchange_agenda : (faultExchange s).agenda = s.agenda := rfl
@[simp] theorem faultExchange_responses : (faultExchange s).responses = s.responses := rfl
@[simp] theorem faultExchange_choices : (faultExchange s).choices = s.choices := rfl

/-! ### setAcc -/

@[simp] theorem setAcc_acc (v : Byte) : (setAcc v s).acc = v := rfl
@[simp] theorem setAcc_txb (v : Byte) : (setAcc v s).txb = s.txb := rfl
@[simp] theorem setAcc_txCnt (v : Byte) : (setAcc v s).txCnt = s.txCnt := rfl
@[simp] theorem setAcc_rxb (v : Byte) : (setAcc v s).rxb = s.rxb := rfl
@[simp] theorem setAcc_rxCnt (v : Byte) : (setAcc v s).rxCnt = s.rxCnt := rfl
@[simp] theorem setAcc_hsState (v : Byte) : (setAcc v s).hsState = s.hsState := rfl
@[simp] theorem setAcc_tSend (v : Byte) : (setAcc v s).tSend = s.tSend := rfl
@[simp] theorem setAcc_rpFlags (v : Byte) : (setAcc v s).rpFlags = s.rpFlags := rfl
@[simp] theorem setAcc_rpUlp (v : Byte) : (setAcc v s).rpUlp = s.rpUlp := rfl
@[simp] theorem setAcc_rpLen (v : Byte) : (setAcc v s).rpLen = s.rpLen := rfl
@[simp] theorem setAcc_rpPay (v : Byte) : (setAcc v s).rpPay = s.rpPay := rfl
@[simp] theorem setAcc_rpCsum (v : Byte) : (setAcc v s).rpCsum = s.rpCsum := rfl
@[simp] theorem setAcc_csRx (v : Byte) : (setAcc v s).csRx = s.csRx := rfl
@[simp] theorem setAcc_csCalc (v : Byte) : (setAcc v s).csCalc = s.csCalc := rfl
@[simp] theorem setAcc_err (v : Byte) : (setAcc v s).err = s.err := rfl
@[simp] theorem setAcc_errInfo (v : Byte) : (setAcc v s).errInfo = s.errInfo := rfl
@[simp] theorem setAcc_poly (v : Byte) : (setAcc v s).poly = s.poly := rfl
@[simp] theorem setAcc_init (v : Byte) : (setAcc v s).init = s.init := rfl
@[simp] theorem setAcc_timeout (v : Byte) : (setAcc v s).timeout = s.timeout := rfl
@[simp] theorem setAcc_timew (v : Byte) : (setAcc v s).timew = s.timew := rfl
@[simp] theorem setAcc_pollOrder (v : Byte) : (setAcc v s).pollOrder = s.pollOrder := rfl
@[simp] theorem setAcc_readPolicy (v : Byte) : (setAcc v s).readPolicy = s.readPolicy := rfl
@[simp] theorem setAcc_now (v : Byte) : (setAcc v s).now = s.now := rfl
@[simp] theorem setAcc_rxq (v : Byte) : (setAcc v s).rxq = s.rxq := rfl
@[simp] theorem setAcc_txlog (v : Byte) : (setAcc v s).txlog = s.txlog := rfl
@[simp] theorem setAcc_tfault (v : Byte) : (setAcc v s).tfault = s.tfault := rfl
@[simp] theorem setAcc_agenda (v : Byte) : (setAcc v s).agenda = s.agenda := rfl
@[simp] theorem setAcc_responses (v : Byte) : (setAcc v s).responses = s.responses ++ [.acc v] := rfl
@[simp] theorem setAcc_choices (v : Byte) : (setAcc v s).choices = s.choices := rfl

/-! ### hold -/

@[simp] theorem hold_acc (got : List Byte) : (hold got s).acc = s.acc := rfl
@[simp] theorem hold_txb (got : List Byte) : (hold got s).txb = s.txb := rfl
@[simp] theorem hold_txCnt (got : List Byte) : (hold got s).txCnt = s.txCnt := rfl
@[simp] theorem hold_rxb (got : List Byte) : (hold got s).rxb = memWrite s.rxb s.rxCnt.toNat got := rfl
@[simp] theorem hold_rxCnt (got : List Byte) : (hold got s).rxCnt = BitVec.ofNat 5 (s.rxCnt.toNat + got.length) := rfl
@[simp] theorem hold_hsState (got : List Byte) : (hold got s).hsState = s.hsState := rfl
@[simp] theorem hold_tSend (got : List Byte) : (hold got s).tSend = s.tSend := rfl
@[simp] theorem hold_rpFlags (got : List Byte) : (hold got s).rpFlags = s.rpFlags := rfl
@[simp] theorem hold_rpUlp (got : List Byte) : (hold got s).rpUlp = s.rpUlp := rfl
@[simp] theorem hold_rpLen (got : List Byte) : (hold got s).rpLen = s.rpLen := rfl
@[simp] theorem hold_rpPay (got : List Byte) : (hold got s).rpPay = s.rpPay := rfl
@[simp] theorem hold_rpCsum (got : List Byte) : (hold got s).rpCsum = s.rpCsum := rfl
@[simp] theorem hold_csRx (got : List Byte) : (hold got s).csRx = s.csRx := rfl
@[simp] theorem hold_csCalc (got : List Byte) : (hold got s).csCalc = s.csCalc := rfl
@[simp] theorem hold_err (got : List Byte) : (hold got s).err = s.err := rfl
@[simp] theorem hold_errInfo (got : List Byte) : (hold got s).errInfo = s.errInfo := rfl
@[simp] theorem hold_poly (got : List Byte) : (hold got s).poly = s.poly := rfl
@[simp] theorem hold_init (got : List Byte) : (hold got s).init = s.init := rfl
@[simp] theorem hold_timeout (got : List Byte) : (hold got s).timeout = s.timeout := rfl
@[simp] theorem hold_timew (got : List Byte) : (hold got s).timew = s.timew := rfl
@[simp] theorem hold_pollOrder (got : List Byte) : (hold got s).pollOrder = s.pollOrder := rfl
@[simp] theorem hold_readPolicy (got : List Byte) : (hold got s).readPolicy = s.readPolicy := rfl
@[simp] theorem hold_now (got : List Byte) : (hold got s).now = s.now := rfl
@[simp] theorem hold_rxq (got : List Byte) : (hold got s).rxq = s.rxq := rfl
@[simp] theorem hold_txlog (got : List Byte) : (hold got s).txlog = s.txlog := rfl
@[simp] theorem hold_tfault (got : List Byte) : (hold got s).tfault = s.tfault := rfl
@[simp] theorem hold_agenda (got : List Byte) : (hold got s).agenda = s.agenda := rfl
@[simp] theorem hold_responses (got : List Byte) : (hold got s).responses = s.responses := rfl
@[simp] theorem hold_choices (got : List Byte) : (hold got s).choices = s.choices := rfl

/-! ### loadFrame -/

@[simp] theorem loadFrame_acc (f : List Byte) : (loadFrame f s).acc = s.acc := rfl
@[simp] theorem loadFrame_txb (f : List Byte) : (loadFrame f s).txb = memWrite s.txb 0 f := rfl
@[simp] theorem loadFrame_txCnt (f : List Byte) : (loadFrame f s).txCnt = BitVec.ofNat 5 f.length := rfl
@[simp] theorem loadFrame_rxb (f : List Byte) : (loadFrame f s).rxb = s.rxb := rfl
@[simp] theorem loadFrame_rxCnt (f : List Byte) : (loadFrame f s).rxCnt = s.rxCnt := rfl
@[simp] theorem loadFrame_hsState (f : List Byte) : (loadFrame f s).hsState = .sending := rfl
@[simp] theorem loadFrame_tSend (f : List Byte) : (loadFrame f s).tSend = s.tSend := rfl
@[simp] theorem loadFrame_rpFlags (f : List Byte) : (loadFrame f s).rpFlags = s.rpFlags := rfl
@[simp] theorem loadFrame_rpUlp (f : List Byte) : (loadFrame f s).rpUlp = s.rpUlp := rfl
@[simp] theorem loadFrame_rpLen (f : List Byte) : (loadFrame f s).rpLen = s.rpLen := rfl
@[simp] theorem loadFrame_rpPay (f : List Byte) : (loadFrame f s).rpPay = s.rpPay := rfl
@[simp] theorem loadFrame_rpCsum (f : List Byte) : (loadFrame f s).rpCsum = s.rpCsum := rfl
@[simp] theorem loadFrame_csRx (f : List Byte) : (loadFrame f s).csRx = s.csRx := rfl
@[simp] theorem loadFrame_csCalc (f : List Byte) : (loadFrame f s).csCalc = s.csCalc := rfl
@[simp] theorem loadFrame_err (f : List Byte) : (loadFrame f s).err = s.err := rfl
@[simp] theorem loadFrame_errInfo (f : List Byte) : (loadFrame f s).errInfo = s.errInfo := rfl
@[simp] theorem loadFrame_poly (f : List Byte) : (loadFrame f s).poly = s.poly := rfl
@[simp] theorem loadFrame_init (f : List Byte) : (loadFrame f s).init = s.init := rfl
@[simp] theorem loadFrame_timeout (f : List Byte) : (loadFrame f s).timeout = s.timeout := rfl
@[simp] theorem loadFrame_timew (f : List Byte) : (loadFrame f s).timew = s.timew := rfl
@[simp] theorem loadFrame_pollOrder (f : List Byte) : (loadFrame f s).pollOrder = s.pollOrder := rfl
@[simp] theorem loadFrame_readPolicy (f : List Byte) : (loadFrame f s).readPolicy = s.readPolicy := rfl
@[simp] theorem loadFrame_now (f : List Byte) : (loadFrame f s).now = s.now := rfl
@[simp] theorem loadFrame_rxq (f : List Byte) : (loadFrame f s).rxq = s.rxq := rfl
@[simp] theorem loadFrame_txlog (f : List Byte) : (loadFrame f s).txlog = s.txlog := rfl
@[simp] theorem loadFrame_tfault (f : List Byte) : (loadFrame f s).tfault = s.tfault := rfl
@[simp] theorem loadFrame_agenda (f : List Byte) : (loadFrame f s).agenda = s.agenda := rfl
@[simp] theorem loadFrame_responses (f : List Byte) : (loadFrame f s).responses = s.responses := rfl
@[simp] theorem loadFrame_choices (f : List Byte) : (loadFrame f s).choices = s.choices := rfl

/-! ### acceptReply -/

@[simp] theorem acceptReply_acc (p : Packet) : (acceptReply p s).acc = s.acc := rfl
@[simp] theorem acceptReply_txb (p : Packet) : (acceptReply p s).txb = s.txb := rfl
@[simp] theorem acceptReply_txCnt (p : Packet) : (acceptReply p s).txCnt = s.txCnt := rfl
@[simp] theorem acceptReply_rxb (p : Packet) : (acceptReply p s).rxb = s.rxb := rfl
@[simp] theorem acceptReply_rxCnt (p : Packet) : (acceptReply p s).rxCnt = s.rxCnt := rfl
@[simp] theorem acceptReply_hsState (p : Packet) : (acceptReply p s).hsState = if hasFlag p.flags flagAck then .acked else .nacked := rfl
@[simp] theorem acceptReply_tSend (p : Packet) : (acceptReply p s).tSend = s.tSend := rfl
@[simp] theorem acceptReply_rpFlags (p : Packet) : (acceptReply p s).rpFlags = p.flags := rfl
@[simp] theorem acceptReply_rpUlp (p : Packet) : (acceptReply p s).rpUlp = p.ulp := rfl
@[simp] theorem acceptReply_rpLen (p : Packet) : (acceptReply p s).rpLen = BitVec.ofNat 4 p.payload.length := rfl
@[simp] theorem acceptReply_rpPay (p : Packet) : (acceptReply p s).rpPay = memWrite s.rpPay 0 p.payload := rfl
@[simp] theorem acceptReply_rpCsum (p : Packet) : (acceptReply p s).rpCsum = p.checksum := rfl
@[simp] theorem acceptReply_csRx (p : Packet) : (acceptReply p s).csRx = s.csRx := rfl
@[simp] theorem acceptReply_csCalc (p : Packet) : (acceptReply p s).csCalc = s.csCalc := rfl
@[simp] theorem acceptReply_err (p : Packet) : (acceptReply p s).err = s.err := rfl
@[simp] theorem acceptReply_errInfo (p : Packet) : (acceptReply p s).errInfo = s.errInfo := rfl
@[simp] theorem acceptReply_poly (p : Packet) : (acceptReply p s).poly = s.poly := rfl
@[simp] theorem acceptReply_init (p : Packet) : (acceptReply p s).init = s.init := rfl
@[simp] theorem acceptReply_timeout (p : Packet) : (acceptReply p s).timeout = s.timeout := rfl
@[simp] theorem acceptReply_timew (p : Packet) : (acceptReply p s).timew = s.timew := rfl
@[simp] theorem acceptReply_pollOrder (p : Packet) : (acceptReply p s).pollOrder = s.pollOrder := rfl
@[simp] theorem acceptReply_readPolicy (p : Packet) : (acceptReply p s).readPolicy = s.readPolicy := rfl
@[simp] theorem acceptReply_now (p : Packet) : (acceptReply p s).now = s.now := rfl
@[simp] theorem acceptReply_rxq (p : Packet) : (acceptReply p s).rxq = s.rxq := rfl
@[simp] theorem acceptReply_txlog (p : Packet) : (acceptReply p s).txlog = s.txlog := rfl
@[simp] theorem acceptReply_tfault (p : Packet) : (acceptReply p s).tfault = s.tfault := rfl
@[simp] theorem acceptReply_agenda (p : Packet) : (acceptReply p s).agenda = s.agenda := rfl
@[simp] theorem acceptReply_responses (p : Packet) : (acceptReply p s).responses = s.responses := rfl
@[simp] theorem acceptReply_choices (p : Packet) : (acceptReply p s).choices = s.choices := rfl

/-! ### corruptReply -/

@[simp] theorem corruptReply_acc (rx comp : Byte) : (corruptReply rx comp s).acc = s.acc := rfl
@[simp] theorem corruptReply_txb (rx comp : Byte) : (corruptReply rx comp s).txb = s.txb := rfl
@[simp] theorem corruptReply_txCnt (rx comp : Byte) : (corruptReply rx comp s).txCnt = s.txCnt := rfl
@[simp] theorem corruptReply_rxb (rx comp : Byte) : (corruptReply rx comp s).rxb = s.rxb := rfl
@[simp] theorem corruptReply_rxCnt (rx comp : Byte) : (corruptReply rx comp s).rxCnt = s.rxCnt := rfl
@[simp] theorem corruptReply_hsState (rx comp : Byte) : (corruptReply rx comp s).hsState = .corrupt := rfl
@[simp] theorem corruptReply_tSend (rx comp : Byte) : (corruptReply rx comp s).tSend = s.tSend := rfl
@[simp] theorem corruptReply_rpFlags (rx comp : Byte) : (corruptReply rx comp s).rpFlags = s.rpFlags := rfl
@[simp] theorem corruptReply_rpUlp (rx comp : Byte) : (corruptReply rx comp s).rpUlp = s.rpUlp := rfl
@[simp] theorem corruptReply_rpLen (rx comp : Byte) : (corruptReply rx comp s).rpLen = s.rpLen := rfl
@[simp] theorem corruptReply_rpPay (rx comp : Byte) : (corruptReply rx comp s).rpPay = s.rpPay := rfl
@[simp] theorem corruptReply_rpCsum (rx comp : Byte) : (corruptReply rx comp s).rpCsum = s.rpCsum := rfl
@[simp] theorem corruptReply_csRx (rx comp : Byte) : (corruptReply rx comp s).csRx = rx := rfl
@[simp] theorem corruptReply_csCalc (rx comp : Byte) : (corruptReply rx comp s).csCalc = comp := rfl
@[simp] theorem corruptReply_err (rx comp : Byte) : (corruptReply rx comp s).err = s.err := rfl
@[simp] theorem corruptReply_errInfo (rx comp : Byte) : (corruptReply rx comp s).errInfo = s.errInfo := rfl
@[simp] theorem corruptReply_poly (rx comp : Byte) : (corruptReply rx comp s).poly = s.poly := rfl
@[simp] theorem corruptReply_init (rx comp : Byte) : (corruptReply rx comp s).init = s.init := rfl
@[simp] theorem corruptReply_timeout (rx comp : Byte) : (corruptReply rx comp s).timeout = s.timeout := rfl
@[simp] theorem corruptReply_timew (rx comp : Byte) : (corruptReply rx comp s).timew = s.timew := rfl
@[simp] theorem corruptReply_pollOrder (rx comp : Byte) : (corruptReply rx comp s).pollOrder = s.pollOrder := rfl
@[simp] theorem corruptReply_readPolicy (rx comp : Byte) : (corruptReply rx comp s).readPolicy = s.readPolicy := rfl
@[simp] theorem corruptReply_now (rx comp : Byte) : (corruptReply rx comp s).now = s.now := rfl
@[simp] theorem corruptReply_rxq (rx comp : Byte) : (corruptReply rx comp s).rxq = s.rxq := rfl
@[simp] theorem corruptReply_txlog (rx comp : Byte) : (corruptReply rx comp s).txlog = s.txlog := rfl
@[simp] theorem corruptReply_tfault (rx comp : Byte) : (corruptReply rx comp s).tfault = s.tfault := rfl
@[simp] theorem corruptReply_agenda (rx comp : Byte) : (corruptReply rx comp s).agenda = s.agenda := rfl
@[simp] theorem corruptReply_responses (rx comp : Byte) : (corruptReply rx comp s).responses = s.responses := rfl
@[simp] theorem corruptReply_choices (rx comp : Byte) : (corruptReply rx comp s).choices = s.choices := rfl

/-! ### timeOut -/

@[simp] theorem timeOut_acc : (timeOut s).acc = s.acc := rfl
@[simp] theorem timeOut_txb : (timeOut s).txb = s.txb := rfl
@[simp] theorem timeOut_txCnt : (timeOut s).txCnt = s.txCnt := rfl
@[simp] theorem timeOut_rxb : (timeOut s).rxb = s.rxb := rfl
@[simp] theorem timeOut_rxCnt : (timeOut s).rxCnt = s.rxCnt := rfl
@[simp] theorem timeOut_hsState : (timeOut s).hsState = .timedOut := rfl
@[simp] theorem timeOut_tSend : (timeOut s).tSend = s.tSend := rfl
@[simp] theorem timeOut_rpFlags : (timeOut s).rpFlags = s.rpFlags := rfl
@[simp] theorem timeOut_rpUlp : (timeOut s).rpUlp = s.rpUlp := rfl
@[simp] theorem timeOut_rpLen : (timeOut s).rpLen = s.rpLen := rfl
@[simp] theorem timeOut_rpPay : (timeOut s).rpPay = s.rpPay := rfl
@[simp] theorem timeOut_rpCsum : (timeOut s).rpCsum = s.rpCsum := rfl
@[simp] theorem timeOut_csRx : (timeOut s).csRx = s.csRx := rfl
@[simp] theorem timeOut_csCalc : (timeOut s).csCalc = s.csCalc := rfl
@[simp] theorem timeOut_err : (timeOut s).err = s.err := rfl
@[simp] theorem timeOut_errInfo : (timeOut s).errInfo = s.errInfo := rfl
@[simp] theorem timeOut_poly : (timeOut s).poly = s.poly := rfl
@[simp] theorem timeOut_init : (timeOut s).init = s.init := rfl
@[simp] theorem timeOut_timeout : (timeOut s).timeout = s.timeout := rfl
@[simp] theorem timeOut_timew : (timeOut s).timew = s.timew := rfl
@[simp] theorem timeOut_pollOrder : (timeOut s).pollOrder = s.pollOrder := rfl
@[simp] theorem timeOut_readPolicy : (timeOut s).readPolicy = s.readPolicy := rfl
@[simp] theorem timeOut_now : (timeOut s).now = s.now := rfl
@[simp] theorem timeOut_rxq : (timeOut s).rxq = s.rxq := rfl
@[simp] theorem timeOut_txlog : (timeOut s).txlog = s.txlog := rfl
@[simp] theorem timeOut_tfault : (timeOut s).tfault = s.tfault := rfl
@[simp] theorem timeOut_agenda : (timeOut s).agenda = s.agenda := rfl
@[simp] theorem timeOut_responses : (timeOut s).responses = s.responses := rfl
@[simp] theorem timeOut_choices : (timeOut s).choices = s.choices := rfl

/-! ### arriveBytes -/

@[simp] theorem arriveBytes_acc (bs : List Byte) : (arriveBytes bs s).acc = s.acc := rfl
@[simp] theorem arriveBytes_txb (bs : List Byte) : (arriveBytes bs s).txb = s.txb := rfl
@[simp] theorem arriveBytes_txCnt (bs : List Byte) : (arriveBytes bs s).txCnt = s.txCnt := rfl
@[simp] theorem arriveBytes_rxb (bs : List Byte) : (arriveBytes bs s).rxb = s.rxb := rfl
@[simp] theorem arriveBytes_rxCnt (bs : List Byte) : (arriveBytes bs s).rxCnt = s.rxCnt := rfl
@[simp] theorem arriveBytes_hsState (bs : List Byte) : (arriveBytes bs s).hsState = s.hsState := rfl
@[simp] theorem arriveBytes_tSend (bs : List Byte) : (arriveBytes bs s).tSend = s.tSend := rfl
@[simp] theorem arriveBytes_rpFlags (bs : List Byte) : (arriveBytes bs s).rpFlags = s.rpFlags := rfl
@[simp] theorem arriveBytes_rpUlp (bs : List Byte) : (arriveBytes bs s).rpUlp = s.rpUlp := rfl
@[simp] theorem arriveBytes_rpLen (bs : List Byte) : (arriveBytes bs s).rpLen = s.rpLen := rfl
@[simp] theorem arriveBytes_rpPay (bs : List Byte) : (arriveBytes bs s).rpPay = s.rpPay := rfl
@[simp] theorem arriveBytes_rpCsum (bs : List Byte) : (arriveBytes bs s).rpCsum = s.rpCsum := rfl
@[simp] theorem arriveBytes_csRx (bs : List Byte) : (arriveBytes bs s).csRx = s.csRx := rfl
@[simp] theorem arriveBytes_csCalc (bs : List Byte) : (arriveBytes bs s).csCalc = s.csCalc := rfl
@[simp] theorem arriveBytes_err (bs : List Byte) : (arriveBytes bs s).err = s.err := rfl
@[simp] theorem arriveBytes_errInfo (bs : List Byte) : (arriveBytes bs s).errInfo = s.errInfo := rfl
@[simp] theorem arriveBytes_poly (bs : List Byte) : (arriveBytes bs s).poly = s.poly := rfl
@[simp] theorem arriveBytes_init (bs : List Byte) : (arriveBytes bs s).init = s.init := rfl
@[simp] theorem arriveBytes_timeout (bs : List Byte) : (arriveBytes bs s).timeout = s.timeout := rfl
@[simp] theorem arriveBytes_timew (bs : List Byte) : (arriveBytes bs s).timew = s.timew := rfl
@[simp] theorem arriveBytes_pollOrder (bs : List Byte) : (arriveBytes bs s).pollOrder = s.pollOrder := rfl
@[simp] theorem arriveBytes_readPolicy (bs : List Byte) : (arriveBytes bs s).readPolicy = s.readPolicy := rfl
@[simp] theorem arriveBytes_now (bs : List Byte) : (arriveBytes bs s).now = s.now := rfl
@[simp] theorem arriveBytes_rxq (bs : List Byte) : (arriveBytes bs s).rxq = s.rxq ++ bs := rfl
@[simp] theorem arriveBytes_txlog (bs : List Byte) : (arriveBytes bs s).txlog = s.txlog := rfl
@[simp] theorem arriveBytes_tfault (bs : List Byte) : (arriveBytes bs s).tfault = s.tfault := rfl
@[simp] theorem arriveBytes_agenda (bs : List Byte) : (arriveBytes bs s).agenda = s.agenda := rfl
@[simp] theorem arriveBytes_responses (bs : List Byte) : (arriveBytes bs s).responses = s.responses := rfl
@[simp] theorem arriveBytes_choices (bs : List Byte) : (arriveBytes bs s).choices = s.choices := rfl

/-! ### advanceTime -/

@[simp] theorem advanceTime_acc (d : Nat) : (advanceTime d s).acc = s.acc := rfl
@[simp] theorem advanceTime_txb (d : Nat) : (advanceTime d s).txb = s.txb := rfl
@[simp] theorem advanceTime_txCnt (d : Nat) : (advanceTime d s).txCnt = s.txCnt := rfl
@[simp] theorem advanceTime_rxb (d : Nat) : (advanceTime d s).rxb = s.rxb := rfl
@[simp] theorem advanceTime_rxCnt (d : Nat) : (advanceTime d s).rxCnt = s.rxCnt := rfl
@[simp] theorem advanceTime_hsState (d : Nat) : (advanceTime d s).hsState = s.hsState := rfl
@[simp] theorem advanceTime_tSend (d : Nat) : (advanceTime d s).tSend = s.tSend := rfl
@[simp] theorem advanceTime_rpFlags (d : Nat) : (advanceTime d s).rpFlags = s.rpFlags := rfl
@[simp] theorem advanceTime_rpUlp (d : Nat) : (advanceTime d s).rpUlp = s.rpUlp := rfl
@[simp] theorem advanceTime_rpLen (d : Nat) : (advanceTime d s).rpLen = s.rpLen := rfl
@[simp] theorem advanceTime_rpPay (d : Nat) : (advanceTime d s).rpPay = s.rpPay := rfl
@[simp] theorem advanceTime_rpCsum (d : Nat) : (advanceTime d s).rpCsum = s.rpCsum := rfl
@[simp] theorem advanceTime_csRx (d : Nat) : (advanceTime d s).csRx = s.csRx := rfl
@[simp] theorem advanceTime_csCalc (d : Nat) : (advanceTime d s).csCalc = s.csCalc := rfl
@[simp] theorem advanceTime_err (d : Nat) : (advanceTime d s).err = s.err := rfl
@[simp] theorem advanceTime_errInfo (d : Nat) : (advanceTime d s).errInfo = s.errInfo := rfl
@[simp] theorem advanceTime_poly (d : Nat) : (advanceTime d s).poly = s.poly := rfl
@[simp] theorem advanceTime_init (d : Nat) : (advanceTime d s).init = s.init := rfl
@[simp] theorem advanceTime_timeout (d : Nat) : (advanceTime d s).timeout = s.timeout := rfl
@[simp] theorem advanceTime_timew (d : Nat) : (advanceTime d s).timew = s.timew := rfl
@[simp] theorem advanceTime_pollOrder (d : Nat) : (advanceTime d s).pollOrder = s.pollOrder := rfl
@[simp] theorem advanceTime_readPolicy (d : Nat) : (advanceTime d s).readPolicy = s.readPolicy := rfl
@[simp] theorem advanceTime_now (d : Nat) : (advanceTime d s).now = wrapTime s.timew (s.now + d) := rfl
@[simp] theorem advanceTime_rxq (d : Nat) : (advanceTime d s).rxq = s.rxq := rfl
@[simp] theorem advanceTime_txlog (d : Nat) : (advanceTime d s).txlog = s.txlog := rfl
@[simp] theorem advanceTime_tfault (d : Nat) : (advanceTime d s).tfault = s.tfault := rfl
@[simp] theorem advanceTime_agenda (d : Nat) : (advanceTime d s).agenda = s.agenda := rfl
@[simp] theorem advanceTime_responses (d : Nat) : (advanceTime d s).responses = s.responses := rfl
@[simp] theorem advanceTime_choices (d : Nat) : (advanceTime d s).choices = s.choices := rfl

/-! ### writeFailed -/

@[simp] theorem writeFailed_acc (bs : List Byte) : (writeFailed bs s).acc = s.acc := rfl
@[simp] theorem writeFailed_txb (bs : List Byte) : (writeFailed bs s).txb = s.txb := rfl
@[simp] theorem writeFailed_txCnt (bs : List Byte) : (writeFailed bs s).txCnt = s.txCnt := rfl
@[simp] theorem writeFailed_rxb (bs : List Byte) : (writeFailed bs s).rxb = s.rxb := rfl
@[simp] theorem writeFailed_rxCnt (bs : List Byte) : (writeFailed bs s).rxCnt = s.rxCnt := rfl
@[simp] theorem writeFailed_hsState (bs : List Byte) : (writeFailed bs s).hsState = s.hsState := rfl
@[simp] theorem writeFailed_tSend (bs : List Byte) : (writeFailed bs s).tSend = s.tSend := rfl
@[simp] theorem writeFailed_rpFlags (bs : List Byte) : (writeFailed bs s).rpFlags = s.rpFlags := rfl
@[simp] theorem writeFailed_rpUlp (bs : List Byte) : (writeFailed bs s).rpUlp = s.rpUlp := rfl
@[simp] theorem writeFailed_rpLen (bs : List Byte) : (writeFailed bs s).rpLen = s.rpLen := rfl
@[simp] theorem writeFailed_rpPay (bs : List Byte) : (writeFailed bs s).rpPay = s.rpPay := rfl
@[simp] theorem writeFailed_rpCsum (bs : List Byte) : (writeFailed bs s).rpCsum = s.rpCsum := rfl
@[simp] theorem writeFailed_csRx (bs : List Byte) : (writeFailed bs s).csRx = s.csRx := rfl
@[simp] theorem writeFailed_csCalc (bs : List Byte) : (writeFailed bs s).csCalc = s.csCalc := rfl
@[simp] theorem writeFailed_err (bs : List Byte) : (writeFailed bs s).err = s.err := rfl
@[simp] theorem writeFailed_errInfo (bs : List Byte) : (writeFailed bs s).errInfo = s.errInfo := rfl
@[simp] theorem writeFailed_poly (bs : List Byte) : (writeFailed bs s).poly = s.poly := rfl
@[simp] theorem writeFailed_init (bs : List Byte) : (writeFailed bs s).init = s.init := rfl
@[simp] theorem writeFailed_timeout (bs : List Byte) : (writeFailed bs s).timeout = s.timeout := rfl
@[simp] theorem writeFailed_timew (bs : List Byte) : (writeFailed bs s).timew = s.timew := rfl
@[simp] theorem writeFailed_pollOrder (bs : List Byte) : (writeFailed bs s).pollOrder = s.pollOrder := rfl
@[simp] theorem writeFailed_readPolicy (bs : List Byte) : (writeFailed bs s).readPolicy = s.readPolicy := rfl
@[simp] theorem writeFailed_now (bs : List Byte) : (writeFailed bs s).now = s.now := rfl
@[simp] theorem writeFailed_rxq (bs : List Byte) : (writeFailed bs s).rxq = s.rxq := rfl
@[simp] theorem writeFailed_txlog (bs : List Byte) : (writeFailed bs s).txlog = s.txlog ++ bs.take (Config.freeSent s.choices) := rfl
@[simp] theorem writeFailed_tfault (bs : List Byte) : (writeFailed bs s).tfault = s.tfault := rfl
@[simp] theorem writeFailed_agenda (bs : List Byte) : (writeFailed bs s).agenda = s.agenda := rfl
@[simp] theorem writeFailed_responses (bs : List Byte) : (writeFailed bs s).responses = s.responses := rfl
@[simp] theorem writeFailed_choices (bs : List Byte) : (writeFailed bs s).choices = s.choices + 1 := rfl

/-! ### resetBlock -/

@[simp] theorem resetBlock_acc : (resetBlock s).acc = s.init := rfl
@[simp] theorem resetBlock_txb : (resetBlock s).txb = [] := rfl
@[simp] theorem resetBlock_txCnt : (resetBlock s).txCnt = 0 := rfl
@[simp] theorem resetBlock_rxb : (resetBlock s).rxb = [] := rfl
@[simp] theorem resetBlock_rxCnt : (resetBlock s).rxCnt = 0 := rfl
@[simp] theorem resetBlock_hsState : (resetBlock s).hsState = .idle := rfl
@[simp] theorem resetBlock_tSend : (resetBlock s).tSend = 0 := rfl
@[simp] theorem resetBlock_rpFlags : (resetBlock s).rpFlags = 0 := rfl
@[simp] theorem resetBlock_rpUlp : (resetBlock s).rpUlp = 0 := rfl
@[simp] theorem resetBlock_rpLen : (resetBlock s).rpLen = 0 := rfl
@[simp] theorem resetBlock_rpPay : (resetBlock s).rpPay = [] := rfl
@[simp] theorem resetBlock_rpCsum : (resetBlock s).rpCsum = 0 := rfl
@[simp] theorem resetBlock_csRx : (resetBlock s).csRx = 0 := rfl
@[simp] theorem resetBlock_csCalc : (resetBlock s).csCalc = 0 := rfl
@[simp] theorem resetBlock_err : (resetBlock s).err = 0 := rfl
@[simp] theorem resetBlock_errInfo : (resetBlock s).errInfo = 0 := rfl
@[simp] theorem resetBlock_poly : (resetBlock s).poly = s.poly := rfl
@[simp] theorem resetBlock_init : (resetBlock s).init = s.init := rfl
@[simp] theorem resetBlock_timeout : (resetBlock s).timeout = s.timeout := rfl
@[simp] theorem resetBlock_timew : (resetBlock s).timew = s.timew := rfl
@[simp] theorem resetBlock_pollOrder : (resetBlock s).pollOrder = s.pollOrder := rfl
@[simp] theorem resetBlock_readPolicy : (resetBlock s).readPolicy = s.readPolicy := rfl
@[simp] theorem resetBlock_now : (resetBlock s).now = s.now := rfl
@[simp] theorem resetBlock_rxq : (resetBlock s).rxq = s.rxq := rfl
@[simp] theorem resetBlock_txlog : (resetBlock s).txlog = s.txlog := rfl
@[simp] theorem resetBlock_tfault : (resetBlock s).tfault = s.tfault := rfl
@[simp] theorem resetBlock_agenda : (resetBlock s).agenda = s.agenda := rfl
@[simp] theorem resetBlock_responses : (resetBlock s).responses = s.responses := rfl
@[simp] theorem resetBlock_choices : (resetBlock s).choices = s.choices := rfl

end Sys2Proof.Machine
end

