-- ==== Sys2Proof/Laws/Transport.lean ====
section
/-! SUPPORT. What a transport primitive and the Stream Reader's buffer step can do. -/

namespace Sys2Proof.Machine

/-- Everything TRead can do: answer `fault` with nothing read, or hand over the first bytes of the queue, at most n. -/
theorem tRead_cases (n : Nat) (s : State) :
    (∃ p, tRead n s = (none, { s with readPolicy := p, tfault := true })) ∨
    (s.tfault = false ∧ ∃ k p c, k ≤ n ∧
      tRead n s = (some (s.rxq.take k), { s with rxq := s.rxq.drop k, readPolicy := p, choices := c })) := by
  unfold tRead
  split
  · rename_i h
    left
    exact ⟨s.readPolicy, by cases s; simp_all⟩
  · rename_i h
    have h : s.tfault = false := by simpa using h
    split
    · exact .inr ⟨h, n, s.readPolicy, s.choices, Nat.le_refl n, by simp [handOver]⟩
    · exact .inr ⟨h, min n (Config.freeRead s.choices), s.readPolicy, s.choices + 1, Nat.min_le_left _ _, by simp [handOver]⟩
    · rename_i k rest hp
      exact .inr ⟨h, min n k, .answers rest, s.choices, Nat.min_le_left _ _, by simp [handOver]⟩
    · rename_i rest hp
      exact .inl ⟨.answers rest, rfl⟩

/-- The reference transport hands over all it may (R65). -/
theorem tRead_greedy {n : Nat} {s : State} (hf : s.tfault = false) (hp : s.readPolicy = .greedy) :
    tRead n s = (some (s.rxq.take n), { s with rxq := s.rxq.drop n }) := by
  simp [tRead, hf, hp, handOver]

/-- A working transport stays so, and answers. -/
theorem tRead_healthy {n : Nat} {s : State} (h : transportHealthy s = true) :
    ∃ k p c, k ≤ n ∧ tRead n s = (some (s.rxq.take k), { s with rxq := s.rxq.drop k, readPolicy := p, choices := c }) ∧
      transportHealthy { s with rxq := s.rxq.drop k, readPolicy := p, choices := c } = true := by
  simp only [transportHealthy, Bool.and_eq_true, Bool.not_eq_true'] at h
  obtain ⟨hf, hp⟩ := h
  unfold tRead
  rw [if_neg (by simp [hf])]
  split
  · rename_i hg
    exact ⟨n, s.readPolicy, s.choices, Nat.le_refl n, by simp [handOver], by simp [transportHealthy, hf, hg]⟩
  · rename_i hg
    exact ⟨min n (Config.freeRead s.choices), s.readPolicy, s.choices + 1, Nat.min_le_left _ _, by simp [handOver],
      by simp [transportHealthy, hf, hg]⟩
  · rename_i k rest hg
    rw [hg] at hp
    simp only [List.all_cons, Bool.and_eq_true] at hp
    exact ⟨min n k, .answers rest, s.choices, Nat.min_le_left _ _, by simp [handOver], by simpa [transportHealthy, hf] using hp.2⟩
  · rename_i rest hg
    rw [hg] at hp
    simp at hp

/-- Bytes that join the held ones stand behind them. -/
theorem hold_spec {got : List Byte} {s : State} (hw : Memory.wf 18 s.rxb = true) (hc : s.rxCnt.toNat + got.length ≤ 18) :
    (hold got s).rxCnt.toNat = s.rxCnt.toNat + got.length ∧ Memory.wf 18 (hold got s).rxb = true ∧
      heldBytes (hold got s) = heldBytes s ++ got := by
  have hn : (hold got s).rxCnt.toNat = s.rxCnt.toNat + got.length := by
    simp only [hold_rxCnt, BitVec.toNat_ofNat]
    exact Nat.mod_eq_of_lt (by omega)
  refine ⟨hn, memWrite_wf hw hc, ?_⟩
  rw [heldBytes, hn, hold_rxb, memRead_add, Nat.zero_add, memRead_memWrite_same hw hc,
    memRead_memWrite_before hw hc (by omega), heldBytes]

/-- The declared length is at most 15. -/
theorem declaredLen_le (len : Byte) : declaredLen len ≤ 15 := by
  have h : (len &&& 0x0F).toNat ≤ 15 := by
    rw [BitVec.toNat_and]
    exact Nat.le_trans Nat.and_le_right (by decide)
  exact h

/-- A frame has 3 to 18 bytes (R98). -/
theorem frameLen_bounds (len : Byte) : 3 ≤ frameLen len ∧ frameLen len ≤ 18 := by
  have := declaredLen_le len
  simp only [frameLen, Config.hdrLen]
  omega

end Sys2Proof.Machine
end

