-- ==== Sys2Proof/Laws/Codec.lean ====
section
/-! SUPPORT. The two cases of EncodeFn and the three of DecodeFn. -/

namespace Sys2Proof.Machine

/-- EncodeFn on a payload that fits. -/
theorem encodeFn_ok {payload : List Byte} (h : payload.length ≤ 15) (poly init : Byte) (flags ulp : Nat) :
    encodeFn poly init flags ulp payload =
      .ok (controlByte flags ulp :: lengthByte payload.length ::
        frameCsum poly init (controlByte flags ulp) (lengthByte payload.length) payload :: payload) := by
  simp only [encodeFn]
  rw [if_neg (by simp only [Config.maxPayload]; omega)]

/-- EncodeFn on a payload that is too long. -/
theorem encodeFn_error {payload : List Byte} (h : payload.length > 15) (poly init : Byte) (flags ulp : Nat) :
    encodeFn poly init flags ulp payload = .error (.payloadTooLong payload.length) := by
  simp only [encodeFn]
  rw [if_pos (by simp only [Config.maxPayload]; omega)]

/-- DecodeFn on a buffer whose checksum does not verify. -/
theorem decodeFn_mismatch {poly init control len rx : Byte} {payload : List Byte}
    (h : frameCsum poly init control len payload ≠ rx) :
    decodeFn poly init (control :: len :: rx :: payload) =
      .error (.checksumMismatch rx (frameCsum poly init control len payload)) := by
  simp [decodeFn, h]

/-- DecodeFn on a buffer whose checksum verifies. -/
theorem decodeFn_ok {poly init control len rx : Byte} {payload : List Byte}
    (h : frameCsum poly init control len payload = rx) :
    decodeFn poly init (control :: len :: rx :: payload) = .ok ⟨flagsOf control, ulpOf control, payload, rx⟩ := by
  simp [decodeFn, h]

/-- DecodeFn on a short buffer. -/
theorem decodeFn_short {poly init : Byte} {b : List Byte} (h : b.length < 3) :
    decodeFn poly init b = .error (.bufferTooShort b.length) := by
  match b, h with
  | [], _ => rfl
  | [_], _ => rfl
  | [_, _], _ => rfl
  | _ :: _ :: _ :: _, h => simp only [List.length_cons] at h; omega

/-- The length byte declares the payload it was made for. -/
theorem declaredLen_lengthByte {n : Nat} (h : n ≤ 15) : declaredLen (lengthByte n) = n := by
  have hall : ∀ k : Fin 16, declaredLen (lengthByte k.val) = k.val := by decide
  exact hall ⟨n, by omega⟩

/-- The control byte is its two fields side by side (R91). -/
theorem control_fields (c : Byte) : flagsOf c ++ ulpOf c = c := by
  revert c; decide +kernel

@[simp] theorem flagsOf_append (f : BitVec 5) (u : BitVec 3) : flagsOf (f ++ u) = f := by
  revert f u; decide +kernel

@[simp] theorem ulpOf_append (f : BitVec 5) (u : BitVec 3) : ulpOf (f ++ u) = u := by
  revert f u; decide +kernel

@[simp] theorem reservedOf_append (r l : BitVec 4) : reservedOf (r ++ l) = r := by
  revert r l; decide +kernel

@[simp] theorem declaredLen_append (r l : BitVec 4) : declaredLen (r ++ l) = l.toNat := by
  revert r l; decide +kernel

/-- The length byte is its two nibbles side by side (R94, R95). -/
theorem length_fields (l : Byte) : reservedOf l ++ BitVec.ofNat 4 (declaredLen l) = l := by
  revert l; decide +kernel

/-- The control byte of field values in range (R153). -/
theorem controlByte_fields (f : BitVec 5) (u : BitVec 3) : controlByte f.toNat u.toNat = f ++ u := by
  revert f u; decide +kernel

/-- The control byte of any operands: flags modulo 32 times 8 plus ulp modulo 8 (R100, R153). -/
theorem controlByte_eq (flags ulp : Nat) : controlByte flags ulp = BitVec.ofNat 8 (flags % 32 * 8 + ulp % 8) := by
  have h1 : flags &&& 0x1F = flags % 32 := Nat.and_two_pow_sub_one_eq_mod flags 5
  have h2 : ulp &&& 0x07 = ulp % 8 := Nat.and_two_pow_sub_one_eq_mod ulp 3
  simp only [controlByte]
  rw [h1, h2, ← Nat.shiftLeft_add_eq_or_of_lt (by omega : ulp % 8 < 2 ^ 3), Nat.shiftLeft_eq]

end Sys2Proof.Machine
end

