-- ==== Sys2Proof/Laws/StreamReader.lean ====
section
/-! SUPPORT. Everything SR_TryRead can do, said once (42_stream_reader.md R171). -/

namespace Sys2Proof.Machine

/-- `t` is `s` after the bytes `got` went from the front of RXQ to the end of the held bytes. -/
structure Took (s t : State) (got : List Byte) : Prop where
  frame : t = { s with rxb := t.rxb, rxCnt := t.rxCnt, rxq := t.rxq, readPolicy := t.readPolicy, choices := t.choices }
  queue : got ++ t.rxq = s.rxq
  count : t.rxCnt.toNat = s.rxCnt.toNat + got.length
  wf : Memory.wf 18 t.rxb = true
  held : heldBytes t = heldBytes s ++ got
  other : ∀ a, a < s.rxCnt.toNat ∨ s.rxCnt.toNat + got.length ≤ a → Memory.read t.rxb a = Memory.read s.rxb a

theorem Took.refl {s : State} (h : Memory.wf 18 s.rxb = true) : Took s s [] where
  frame := rfl
  queue := rfl
  count := rfl
  wf := h
  held := by simp
  other := fun _ _ => rfl

theorem Took.trans {s t u : State} {g g' : List Byte} (h : Took s t g) (h' : Took t u g') : Took s u (g ++ g') where
  frame := by rw [h'.frame, h.frame]
  queue := by rw [List.append_assoc, h'.queue, h.queue]
  count := by rw [h'.count, h.count, List.length_append, Nat.add_assoc]
  wf := h'.wf
  held := by rw [h'.held, h.held, List.append_assoc]
  other := by
    intro a ha
    have hc := h.count
    rw [List.length_append] at ha
    rw [h'.other a (by omega), h.other a (by omega)]

/-- One TRead and its bytes held; the only other answer is `fault`. -/
theorem tRead_hold (n : Nat) (s : State) (hw : Memory.wf 18 s.rxb = true) (hn : s.rxCnt.toNat + n ≤ 18) :
    (∃ p, tRead n s = (none, { s with readPolicy := p, tfault := true })) ∨
    (s.tfault = false ∧ ∃ got s1, tRead n s = (some got, s1) ∧ got.length ≤ n ∧ Took s (hold got s1) got) := by
  rcases tRead_cases n s with h | ⟨hf, k, p, c, hk, h⟩
  · exact .inl h
  · refine .inr ⟨hf, s.rxq.take k, _, h, ?_, ?_⟩
    · rw [List.length_take]; omega
    · have hl : (s.rxq.take k).length ≤ n := by rw [List.length_take]; omega
      have hs := hold_spec (s := { s with rxq := s.rxq.drop k, readPolicy := p, choices := c }) (got := s.rxq.take k) hw
        (by show s.rxCnt.toNat + _ ≤ 18; omega)
      refine ⟨rfl, List.take_append_drop k s.rxq, hs.1, hs.2.1, hs.2.2, ?_⟩
      intro a ha
      rw [hold_rxb, read_memWrite (cap := 18) hw (by show s.rxCnt.toNat + _ ≤ 18; omega)]
      rw [if_neg (by show ¬(s.rxCnt.toNat ≤ a ∧ a < s.rxCnt.toNat + _); omega)]

/-- What a call of SR_TryRead that took the bytes `got` returned. -/
inductive SrEnds (s u : State) : SrResult × State → Prop where
  /-- a primitive answered fault; the bytes taken before it stay held (R182) -/
  | fault (p : ReadPolicy) (h : s.tfault = true ∧ u = s ∨ RxPartial u) :
    SrEnds s u (.fault, { u with readPolicy := p, tfault := true })
  /-- no complete frame is held (R176) -/
  | pending (h : RxPartial u) (hf : s.tfault = false) : SrEnds s u (.pending, u)
  /-- the held bytes are a complete frame, which is handed over (R171) -/
  | frame (h3 : 3 ≤ u.rxCnt.toNat) (hn : srNeed u ≤ u.rxCnt.toNat) (he : s.rxCnt.toNat ≤ srNeed s → u.rxCnt.toNat = srNeed u) :
    SrEnds s u (.frame (memRead u.rxb 0 (srNeed u)), { u with rxCnt := 0 })

/-- A partial frame has at most as many bytes as its frame. -/
theorem RxPartial.le_need {s : State} (h : RxPartial s) : s.rxCnt.toNat ≤ srNeed s := by
  have hb := frameLen_bounds (Memory.read s.rxb 1)
  simp only [srNeed]
  rcases h with h | h <;> omega

theorem srNeed_bounds (s : State) : 3 ≤ srNeed s ∧ srNeed s ≤ 18 := frameLen_bounds _

/-- On a failed transport SR_TryRead answers fault and changes nothing, since a partial frame always needs a primitive (R171). -/
theorem srTryRead_tfault {s : State} (h : s.tfault = true) (hp : RxPartial s) : srTryRead s = (.fault, s) := by
  unfold srTryRead
  split
  · simp [tAvail, h]
  · rename_i h3
    simp only [Config.hdrLen] at h3
    unfold srPayload
    rw [if_pos (show s.rxCnt.toNat < srNeed s from hp.resolve_left (by omega)), show tRead _ s = (none, s) by simp [tRead, h]]

/-- Phase 2 of SR_TryRead. -/
theorem srPayload_cases (s : State) (hw : Memory.wf 18 s.rxb = true) (h3 : 3 ≤ s.rxCnt.toNat) :
    ∃ got u, Took s u got ∧ SrEnds s u (srPayload s) := by
  have hb := srNeed_bounds s
  unfold srPayload
  by_cases hlt : s.rxCnt.toNat < srNeed s
  · rw [if_pos hlt]
    rcases tRead_hold (srNeed s - s.rxCnt.toNat) s hw (by omega) with ⟨p, h⟩ | ⟨hf, got, s1, h, hl, ht⟩
    · rw [h]
      exact ⟨[], s, Took.refl hw, .fault p (.inr (.inr hlt))⟩
    · rw [h]
      have hneed : srNeed (hold got s1) = srNeed s := by
        unfold srNeed
        rw [ht.other 1 (by omega)]
      have hc := ht.count
      by_cases hp : (hold got s1).rxCnt.toNat < srNeed (hold got s1)
      · simp only [if_pos hp]
        exact ⟨got, _, ht, .pending (.inr hp) hf⟩
      · simp only [if_neg hp]
        exact ⟨got, _, ht, .frame (by omega) (by omega) (fun _ => by omega)⟩
  · rw [if_neg hlt]
    exact ⟨[], s, Took.refl hw, .frame h3 (by omega) (fun _ => by omega)⟩

/-- SR_TryRead takes some bytes and ends in one of three ways. -/
theorem srTryRead_cases (s : State) (hw : Memory.wf 18 s.rxb = true) :
    ∃ got u, Took s u got ∧ SrEnds s u (srTryRead s) := by
  unfold srTryRead
  by_cases h3 : s.rxCnt.toNat < Config.hdrLen
  · rw [if_pos h3]
    simp only [Config.hdrLen] at h3
    unfold tAvail
    by_cases hf : s.tfault = true
    · rw [if_pos hf]
      refine ⟨[], s, Took.refl hw, ?_⟩
      have := SrEnds.fault (s := s) (u := s) s.readPolicy (.inl ⟨hf, rfl⟩)
      rw [show ({ s with readPolicy := s.readPolicy, tfault := true } : State) = s by cases s; simp_all] at this
      exact this
    · rw [if_neg hf]
      have hf' : s.tfault = false := by simpa using hf
      by_cases hg : s.rxCnt.toNat + s.rxq.length < Config.hdrLen
      · simp only [if_pos hg]
        exact ⟨[], s, Took.refl hw, .pending (.inl h3) hf'⟩
      · simp only [if_neg hg]
        rcases tRead_hold (Config.hdrLen - s.rxCnt.toNat) s hw (by simp only [Config.hdrLen]; omega) with
          ⟨p, h⟩ | ⟨-, got, s1, h, hl, ht⟩
        · rw [h]
          exact ⟨[], s, Took.refl hw, .fault p (.inr (.inl h3))⟩
        · rw [h]
          have hc := ht.count
          simp only [Config.hdrLen] at hl
          by_cases hp : (hold got s1).rxCnt.toNat < Config.hdrLen
          · simp only [if_pos hp]
            exact ⟨got, _, ht, .pending (.inl hp) hf'⟩
          · simp only [if_neg hp]
            simp only [Config.hdrLen] at hp
            have hf1 : (hold got s1).tfault = false := by rw [ht.frame]; exact hf'
            have hb := srNeed_bounds (hold got s1)
            obtain ⟨g', u, ht', he⟩ := srPayload_cases (hold got s1) ht.wf (by omega)
            refine ⟨got ++ g', u, ht.trans ht', ?_⟩
            generalize srPayload (hold got s1) = res at he
            cases he with
            | fault p hx =>
              refine .fault p (.inr ?_)
              rcases hx with ⟨hx, -⟩ | hx
              · rw [hf1] at hx; cases hx
              · exact hx
            | pending hx _ => exact .pending hx hf'
            | frame h3 hn he =>
              exact .frame h3 hn (fun _ => he (by omega))
  · rw [if_neg h3]
    simp only [Config.hdrLen] at h3
    exact srPayload_cases s hw (by omega)

@[simp] theorem heldBytes_length (s : State) : (heldBytes s).length = s.rxCnt.toNat := by simp [heldBytes]

/-- Once the length byte is held, it is byte 1 of the stream. -/
theorem heldBytes_length_byte {s : State} (h : 2 ≤ s.rxCnt.toNat) : (rxStream s).getD 1 0 = Memory.read s.rxb 1 := by
  have h1 : (heldBytes s).getD 1 0 = Memory.read s.rxb 1 := memRead_getD (addr := 0) (by omega)
  rw [rxStream, List.getD_eq_getElem?_getD, List.getElem?_append_left (by simp; omega), ← List.getD_eq_getElem?_getD, h1]

/-- Phase 2 with the reference transport: a complete frame is handed over at once. -/
theorem srPayload_greedy {s : State} (hf : s.tfault = false) (hp : s.readPolicy = .greedy) (hw : Memory.wf 18 s.rxb = true)
    (h3 : 3 ≤ s.rxCnt.toNat) (hn : s.rxCnt.toNat ≤ srNeed s) (hl : srNeed s ≤ (rxStream s).length) :
    ∃ m : Memory, srPayload s = (.frame ((rxStream s).take (srNeed s)),
      { s with rxb := m, rxCnt := 0, rxq := (rxStream s).drop (srNeed s) }) := by
  have hb := srNeed_bounds s
  have hlen : (rxStream s).length = s.rxCnt.toNat + s.rxq.length := by simp [rxStream]
  have htake : (rxStream s).take (srNeed s) = heldBytes s ++ s.rxq.take (srNeed s - s.rxCnt.toNat) := by
    rw [rxStream, List.take_append, List.take_of_length_le (by simpa using hn), heldBytes_length]
  have hdrop : (rxStream s).drop (srNeed s) = s.rxq.drop (srNeed s - s.rxCnt.toNat) := by
    rw [rxStream, List.drop_append, List.drop_of_length_le (by simpa using hn), heldBytes_length, List.nil_append]
  rw [htake, hdrop]
  unfold srPayload
  by_cases hlt : s.rxCnt.toNat < srNeed s
  · rw [if_pos hlt, tRead_greedy hf hp]
    have hg : (s.rxq.take (srNeed s - s.rxCnt.toNat)).length = srNeed s - s.rxCnt.toNat := by
      rw [List.length_take]; omega
    have hs := hold_spec (s := { s with rxq := s.rxq.drop (srNeed s - s.rxCnt.toNat) })
      (got := s.rxq.take (srNeed s - s.rxCnt.toNat)) hw (by show s.rxCnt.toNat + _ ≤ 18; omega)
    generalize hu : hold (s.rxq.take (srNeed s - s.rxCnt.toNat)) { s with rxq := s.rxq.drop (srNeed s - s.rxCnt.toNat) } = u at hs
    obtain ⟨hc, -, hh⟩ := hs
    have hc : u.rxCnt.toNat = srNeed s := by
      have : u.rxCnt.toNat = s.rxCnt.toNat + _ := hc
      omega
    have hneed : srNeed u = srNeed s := by
      unfold srNeed
      rw [← hu, hold_rxb, read_memWrite (cap := 18) hw (by show s.rxCnt.toNat + _ ≤ 18; omega),
        if_neg (by show ¬(s.rxCnt.toNat ≤ 1 ∧ _); omega)]
    simp only [hu]
    rw [if_neg (by omega)]
    refine ⟨u.rxb, ?_⟩
    unfold srComplete
    rw [hneed, ← hc]
    have hh : memRead u.rxb 0 u.rxCnt.toNat = heldBytes s ++ s.rxq.take (srNeed s - s.rxCnt.toNat) := hh
    rw [hc] at hh ⊢
    rw [hh, ← hu]
    rfl
  · rw [if_neg hlt]
    have he : srNeed s = s.rxCnt.toNat := by omega
    refine ⟨s.rxb, ?_⟩
    unfold srComplete
    rw [he, Nat.sub_self]
    simp [heldBytes]

/-- With the reference transport SR_TryRead hands over the first frame of the stream as soon as it is complete, and takes no more. -/
theorem srTryRead_greedy {s : State} (hf : s.tfault = false) (hp : s.readPolicy = .greedy) (hw : Memory.wf 18 s.rxb = true)
    (hr : RxPartial s) (h3 : 3 ≤ (rxStream s).length) (hl : frameLen ((rxStream s).getD 1 0) ≤ (rxStream s).length) :
    ∃ m : Memory, srTryRead s = (.frame ((rxStream s).take (frameLen ((rxStream s).getD 1 0))),
      { s with rxb := m, rxCnt := 0, rxq := (rxStream s).drop (frameLen ((rxStream s).getD 1 0)) }) := by
  have hlen : (rxStream s).length = s.rxCnt.toNat + s.rxq.length := by simp [rxStream]
  unfold srTryRead
  by_cases hc : s.rxCnt.toNat < Config.hdrLen
  · rw [if_pos hc]
    simp only [Config.hdrLen] at hc
    rw [show tAvail s = some s.rxq.length by simp [tAvail, hf]]
    simp only [Config.hdrLen]
    rw [if_neg (by omega), tRead_greedy hf hp]
    have hg : (s.rxq.take (3 - s.rxCnt.toNat)).length = 3 - s.rxCnt.toNat := by rw [List.length_take]; omega
    have hs := hold_spec (s := { s with rxq := s.rxq.drop (3 - s.rxCnt.toNat) }) (got := s.rxq.take (3 - s.rxCnt.toNat)) hw
      (by show s.rxCnt.toNat + _ ≤ 18; omega)
    generalize hu : hold (s.rxq.take (3 - s.rxCnt.toNat)) { s with rxq := s.rxq.drop (3 - s.rxCnt.toNat) } = u at hs
    obtain ⟨hcu, hwu, hh⟩ := hs
    have hcu : u.rxCnt.toNat = 3 := by
      have : u.rxCnt.toNat = s.rxCnt.toNat + _ := hcu
      omega
    have hq : u.rxq = s.rxq.drop (3 - s.rxCnt.toNat) := by rw [← hu]; rfl
    have hst : rxStream u = rxStream s := by
      rw [rxStream, hh, hq, List.append_assoc, List.take_append_drop]
      rfl
    have hneed : srNeed u = frameLen ((rxStream s).getD 1 0) := by
      rw [← hst, heldBytes_length_byte (by omega), srNeed]
    simp only [hu]
    rw [if_neg (by omega)]
    have hb := srNeed_bounds u
    obtain ⟨m, hm⟩ := srPayload_greedy (s := u) (by rw [← hu]; exact hf) (by rw [← hu]; exact hp) hwu (by omega) (by omega)
      (by rw [hst, hneed]; exact hl)
    refine ⟨m, ?_⟩
    rw [hm, hst, hneed, ← hu]
    rfl
  · rw [if_neg hc]
    simp only [Config.hdrLen] at hc
    have hneed : srNeed s = frameLen ((rxStream s).getD 1 0) := by rw [heldBytes_length_byte (by omega), srNeed]
    obtain ⟨m, hm⟩ := srPayload_greedy hf hp hw (by omega) hr.le_need (by rw [hneed]; exact hl)
    exact ⟨m, by rw [hm, hneed]⟩

/-- `t` differs from `s` only in what the Stream Reader writes: RXB, RX_CNT and the transport. -/
def ReadsOnly (s t : State) : Prop :=
  t = { s with rxb := t.rxb, rxCnt := t.rxCnt, rxq := t.rxq, readPolicy := t.readPolicy, tfault := t.tfault, choices := t.choices }

theorem ReadsOnly.trans {s t u : State} (h : ReadsOnly s t) (h' : ReadsOnly t u) : ReadsOnly s u := by
  unfold ReadsOnly at *
  rw [h', h]

theorem tRead_readsOnly {n : Nat} {s t : State} {answer : Option (List Byte)} (h : tRead n s = (answer, t)) : ReadsOnly s t := by
  rcases tRead_cases n s with ⟨p, h'⟩ | ⟨hf, k, p, c, hk, h'⟩ <;> rw [h'] at h <;> injection h with _ h <;> subst h <;> rfl

theorem hold_readsOnly (got : List Byte) (s : State) : ReadsOnly s (hold got s) := rfl

theorem srPayload_readsOnly (s : State) : ReadsOnly s (srPayload s).2 := by
  unfold srPayload
  split
  · split
    · exact tRead_readsOnly ‹_›
    · dsimp only
      split
      · exact (tRead_readsOnly ‹_›).trans (hold_readsOnly _ _)
      · exact ((tRead_readsOnly ‹_›).trans (hold_readsOnly _ _)).trans rfl
  · rfl

/-- SR_TryRead writes RXB, RX_CNT and the transport's state only, from any state. -/
theorem srTryRead_readsOnly {s t : State} {r : SrResult} (h : srTryRead s = (r, t)) : ReadsOnly s t := by
  have hall : ReadsOnly s (srTryRead s).2 := by
    unfold srTryRead
    split
    · split
      · rfl
      · split
        · rfl
        · split
          · exact tRead_readsOnly ‹_›
          · dsimp only
            split
            · exact (tRead_readsOnly ‹_›).trans (hold_readsOnly _ _)
            · exact ((tRead_readsOnly ‹_›).trans (hold_readsOnly _ _)).trans (srPayload_readsOnly _)
    · exact srPayload_readsOnly _
  rw [h] at hall
  exact hall

end Sys2Proof.Machine
end

