-- ==== Sys2Proof/Laws/Handshake.lean ====
section
/-! SUPPORT. Everything a poll and a send can do, said once (43_handshake.md R193, R194, R211). -/

namespace Sys2Proof.Machine

/-- A frame handed over by SR_TryRead is a held run of its declared length (R179). -/
theorem srTryRead_frame {s t : State} {f : List Byte} (h : srTryRead s = (.frame f, t)) :
    ∃ u : State, f = memRead u.rxb 0 (srNeed u) := by
  have hc : ∀ u v, srComplete u = (.frame f, v) → ∃ u : State, f = memRead u.rxb 0 (srNeed u) := by
    intro u v h
    simp only [srComplete, Prod.mk.injEq, SrResult.frame.injEq] at h
    exact ⟨u, h.1.symm⟩
  have hp : ∀ u v, srPayload u = (.frame f, v) → ∃ u : State, f = memRead u.rxb 0 (srNeed u) := by
    intro u v h
    unfold srPayload at h
    split at h
    · split at h
      · cases h
      · dsimp only at h
        split at h
        · cases h
        · exact hc _ _ h
    · exact hc _ _ h
  unfold srTryRead at h
  split at h
  · split at h
    · cases h
    · split at h
      · cases h
      · split at h
        · cases h
        · dsimp only at h
          split at h
          · cases h
          · exact hp _ _ h
  · exact hp _ _ h

/-- The parts of a frame handed over by SR_TryRead. -/
theorem srTryRead_frame_parts {s t : State} {f : List Byte} (h : srTryRead s = (.frame f, t)) :
    ∃ control len rx payload, f = control :: len :: rx :: payload ∧ payload.length = declaredLen len := by
  obtain ⟨u, rfl⟩ := srTryRead_frame h
  have hb := srNeed_bounds u
  have hl : (memRead u.rxb 0 (srNeed u)).length = srNeed u := memRead_length ..
  have h1 : (memRead u.rxb 0 (srNeed u)).getD 1 0 = Memory.read u.rxb 1 := memRead_getD (addr := 0) (by omega)
  generalize memRead u.rxb 0 (srNeed u) = f at hl h1
  match f, hl, h1 with
  | [], hl, _ => simp only [List.length_nil] at hl; omega
  | [_], hl, _ => simp only [List.length_cons, List.length_nil] at hl; omega
  | [_, _], hl, _ => simp only [List.length_cons, List.length_nil] at hl; omega
  | a :: b :: c :: d, hl, h1 =>
    refine ⟨a, b, c, d, rfl, ?_⟩
    have h1 : b = Memory.read u.rxb 1 := h1
    simp only [List.length_cons, srNeed, frameLen, Config.hdrLen, ← h1] at hl
    omega

/-- The outcome of a complete frame: the checksum decides first, then the ACK flag (R194). -/
theorem settleFrame_frame (s : State) (control len rx : Byte) (payload : List Byte) :
    settleFrame (control :: len :: rx :: payload) s =
      if frameCsum s.poly s.init control len payload = rx then
        acceptReply ⟨flagsOf control, ulpOf control, payload, rx⟩ s
      else corruptReply rx (frameCsum s.poly s.init control len payload) s := by
  unfold settleFrame
  by_cases h : frameCsum s.poly s.init control len payload = rx
  · rw [decodeFn_ok h, if_pos h]
  · rw [decodeFn_mismatch h, if_neg h]

/-- What a poll of `s` that leaves `u` did. -/
inductive PollEnds (s u : State) : Prop where
  /-- the deadline has passed and nothing was read (R199) -/
  | deadline (ho : s.pollOrder = .deadlineFirst) (he : elapsed s > s.timeout) (h : u = timeOut s)
  /-- a primitive answered fault (R200) -/
  | fault (t : State) (hr : srTryRead s = (.fault, t)) (h : u = faultExchange t)
  /-- no complete frame, and the deadline has not passed -/
  | waits (hr : srTryRead s = (.pending, u)) (he : elapsed s ≤ s.timeout)
  /-- no complete frame, and the deadline has passed (R211) -/
  | late (t : State) (ho : s.pollOrder = .frameFirst) (hr : srTryRead s = (.pending, t)) (he : elapsed s > s.timeout)
    (h : u = timeOut t)
  /-- a complete frame that verifies (R197, R198) -/
  | reply (t : State) (control len rx : Byte) (payload : List Byte)
    (hr : srTryRead s = (.frame (control :: len :: rx :: payload), t)) (hl : payload.length = declaredLen len)
    (hc : frameCsum t.poly t.init control len payload = rx)
    (h : u = acceptReply ⟨flagsOf control, ulpOf control, payload, rx⟩ t)
  /-- a complete frame that does not (R196) -/
  | corrupt (t : State) (control len rx : Byte) (payload : List Byte)
    (hr : srTryRead s = (.frame (control :: len :: rx :: payload), t)) (hl : payload.length = declaredLen len)
    (hc : frameCsum t.poly t.init control len payload ≠ rx)
    (h : u = corruptReply rx (frameCsum t.poly t.init control len payload) t)

/-- A poll does one of these, in either poll order. -/
theorem pollOnce_cases (s : State) : PollEnds s (pollOnce s) := by
  have hframe : ∀ f t, srTryRead s = (.frame f, t) → PollEnds s (settleFrame f t) := by
    intro f t hr
    obtain ⟨c, l, x, p, rfl, hl⟩ := srTryRead_frame_parts hr
    rw [settleFrame_frame]
    by_cases hc : frameCsum t.poly t.init c l p = x
    · rw [if_pos hc]; exact .reply t c l x p hr hl hc rfl
    · rw [if_neg hc]; exact .corrupt t c l x p hr hl hc rfl
  unfold pollOnce
  split
  · rename_i ho
    unfold pollDeadlineFirst
    split
    · exact .deadline ho ‹_› rfl
    · split
      · exact .fault _ ‹_› rfl
      · exact .waits ‹_› (by omega)
      · exact hframe _ _ ‹_›
  · rename_i ho
    unfold pollFrameFirst
    split
    · exact .fault _ ‹_› rfl
    · rename_i t hr
      by_cases he : elapsed s > s.timeout
      · rw [if_pos he]; exact .late t ho hr he rfl
      · rw [if_neg he]; exact .waits hr (by omega)
    · exact hframe _ _ ‹_›

/-- XPOLL where it is enabled. -/
theorem exec_xpoll {s : State} (h : s.hsState = .awaitingReply) : exec .xpoll s = .next (pollOnce s) := by
  show execXpoll s = _
  unfold execXpoll
  split <;> simp_all

/-- XPOLL where it is not enabled (R191). -/
theorem exec_xpoll_idle {s : State} (h : s.hsState ≠ .awaitingReply) : exec .xpoll s = .next s := by
  show execXpoll s = _
  unfold execXpoll
  split <;> simp_all

/-- XSEND where it is enabled. -/
theorem exec_xsend {s : State} (h : s.hsState = .sending) (hc : s.txCnt.toNat ≤ 18) :
    exec .xsend s = .next (sendFrame (memRead s.txb 0 s.txCnt.toNat) s) := by
  show execXsend s = _
  unfold execXsend
  split <;> first | rw [if_pos hc] | simp_all

/-- XSEND where it is not enabled (R191). -/
theorem exec_xsend_idle {s : State} (h : s.hsState ≠ .sending) : exec .xsend s = .next s := by
  show execXsend s = _
  unfold execXsend
  split <;> simp_all

/-- A send writes all and waits, or some front part and faults (R193). -/
theorem sendFrame_cases (f : List Byte) (s : State) :
    (s.tfault = false ∧
      sendFrame f s = { s with txlog := s.txlog ++ f, tSend := s.now, hsState := .awaitingReply }) ∨
    (s.tfault = true ∧ ∃ n, sendFrame f s =
      { s with txlog := s.txlog ++ f.take n, choices := s.choices + 1, err := 4, errInfo := 0, hsState := .faulted }) := by
  unfold sendFrame tWrite
  by_cases h : s.tfault = true
  · right
    rw [if_pos h]
    exact ⟨h, Config.freeSent s.choices, rfl⟩
  · left
    rw [if_neg h]
    exact ⟨by simpa using h, rfl⟩

end Sys2Proof.Machine
end

