-- ==== Sys2Proof/Laws/PerInstr.lean ====
section
/-! SUPPORT. Families of statements made for every instruction. EncodeShape: the encoding carries its opcode-table row's fixed bits. -/

namespace Sys2Proof.Laws.EncodeShape

/-- The fixed bits of a row of the opcode table. -/
structure Row where
  port : Port
  mask0 : Byte
  match0 : Byte
  mask1 : Byte
  match1 : Byte

/-- A CMD row: four bits of the first byte (R101). -/
def cmdRow (code : Byte) : Row := ⟨.cmd, 0x0F, code, 0, 0⟩

/-- An AUTO row: three bits (R104). -/
def autoRow (code : Byte) : Row := ⟨.auto, 0x07, code, 0, 0⟩

/-- The row of spec/opcode_table.json for each instruction. -/
def rowOf : Instr → Row
  | .crcinit => cmdRow 0x1
  | .crcbyte _ => cmdRow 0x2
  | .crc8 _ => cmdRow 0x3
  | .encode _ _ _ => cmdRow 0x4
  | .decode _ => cmdRow 0x5
  | .rdframe => cmdRow 0x6
  | .xstart _ _ _ => cmdRow 0x8
  | .xabandon => cmdRow 0x9
  | .illegal0 => cmdRow 0x0
  | .illegal7 => cmdRow 0x7
  | .illegalA => cmdRow 0xA
  | .illegalB => cmdRow 0xB
  | .illegalC => cmdRow 0xC
  | .illegalD => cmdRow 0xD
  | .illegalE => cmdRow 0xE
  | .illegalF => cmdRow 0xF
  | .xsend => autoRow 1
  | .xpoll => autoRow 2
  | .frame _ _ _ _ _ => ⟨.line, 0, 0, 0, 0⟩
  | .frameEncoded _ _ _ _ => ⟨.peer, 0, 0, 0xF0, 0⟩
  | .frameAck _ _ _ _ _ _ _ _ => ⟨.line, 0x40, 0x40, 0, 0⟩
  | .frameNack _ _ _ _ _ _ _ _ => ⟨.line, 0x40, 0, 0, 0⟩

/-- The encoder's port and first two bytes fit the row. -/
def Statement (i : Instr) : Prop :=
  (encode i).1 = (rowOf i).port ∧
  (encode i).2.getD 0 0 &&& (rowOf i).mask0 = (rowOf i).match0 ∧
  (encode i).2.getD 1 0 &&& (rowOf i).mask1 = (rowOf i).match1

theorem and_zero_byte (b : Byte) : b &&& 0 = 0 := BitVec.and_zero

/-- An instruction that comes in by the command port with its code in the first byte. -/
theorem ofCommand {i : Instr} {code : Byte} {operands : List Byte} (hr : rowOf i = cmdRow code)
    (he : Sys2Proof.encode i = (.cmd, code :: operands)) (hc : code &&& 0x0F = code) : Statement i := by
  unfold Statement
  rw [hr, he]
  exact ⟨rfl, hc, and_zero_byte _⟩

theorem crcinit : Statement .crcinit := ofCommand rfl rfl (by decide)
theorem crcbyte (b : Byte) : Statement (.crcbyte b) := ofCommand rfl rfl (by decide)
theorem crc8 (data : List Byte) : Statement (.crc8 data) := ofCommand rfl rfl (by decide)
theorem encode (flags ulp : Byte) (payload : List Byte) : Statement (.encode flags ulp payload) := ofCommand rfl rfl (by decide)
theorem decode (buffer : List Byte) : Statement (.decode buffer) := ofCommand rfl rfl (by decide)
theorem rdframe : Statement .rdframe := ofCommand rfl rfl (by decide)
theorem xstart (flags ulp : Byte) (payload : List Byte) : Statement (.xstart flags ulp payload) := ofCommand rfl rfl (by decide)
theorem xabandon : Statement .xabandon := ofCommand rfl rfl (by decide)
theorem illegal0 : Statement .illegal0 := ofCommand rfl rfl (by decide)
theorem illegal7 : Statement .illegal7 := ofCommand rfl rfl (by decide)
theorem illegalA : Statement .illegalA := ofCommand rfl rfl (by decide)
theorem illegalB : Statement .illegalB := ofCommand rfl rfl (by decide)
theorem illegalC : Statement .illegalC := ofCommand rfl rfl (by decide)
theorem illegalD : Statement .illegalD := ofCommand rfl rfl (by decide)
theorem illegalE : Statement .illegalE := ofCommand rfl rfl (by decide)
theorem illegalF : Statement .illegalF := ofCommand rfl rfl (by decide)
theorem xsend : Statement .xsend := ⟨rfl, by decide, by decide⟩
theorem xpoll : Statement .xpoll := ⟨rfl, by decide, by decide⟩
theorem frame (flags : BitVec 5) (ulp : BitVec 3) (rsv : BitVec 4) (csum : Byte) (payload : List Byte) :
    Statement (.frame flags ulp rsv csum payload) := ⟨rfl, and_zero_byte _, and_zero_byte _⟩
theorem frameEncoded (flags : BitVec 5) (ulp : BitVec 3) (csum : Byte) (payload : List Byte) :
    Statement (.frameEncoded flags ulp csum payload) := by
  refine ⟨rfl, and_zero_byte _, ?_⟩
  have h : ∀ n : BitVec 4, ((0 : BitVec 4) ++ n : BitVec 8) &&& 0xF0 = 0 := by decide
  exact h _
theorem frameAck (s g n t : Bool) (ulp : BitVec 3) (rsv : BitVec 4) (csum : Byte) (payload : List Byte) :
    Statement (.frameAck s g n t ulp rsv csum payload) := by
  refine ⟨rfl, ?_, and_zero_byte _⟩
  have h : ∀ (s g n t : Bool) (u : BitVec 3),
      (Machine.flagsOfBits s true g n t ++ u : BitVec 8) &&& 0x40 = 0x40 := by decide
  exact h s g n t ulp
theorem frameNack (s g n t : Bool) (ulp : BitVec 3) (rsv : BitVec 4) (csum : Byte) (payload : List Byte) :
    Statement (.frameNack s g n t ulp rsv csum payload) := by
  refine ⟨rfl, ?_, and_zero_byte _⟩
  have h : ∀ (s g n t : Bool) (u : BitVec 3),
      (Machine.flagsOfBits s false g n t ++ u : BitVec 8) &&& 0x40 = 0 := by decide
  exact h s g n t ulp

end Sys2Proof.Laws.EncodeShape
end

