-- ==== Sys2Proof/Laws/Step.lean ====
section
/-! SUPPORT. Everything an instruction and a step can do, said once; claims about all steps take it apart by cases. -/

namespace Sys2Proof.Machine

/-- How `exec i s` ends when it answers a next state. -/
inductive ExecEnds : Instr → State → State → Prop where
  /-- a CRC command (R126 to R128) -/
  | acc {i : Instr} {s : State} (v : Byte) (hi : i = .crcinit ∨ (∃ b, i = .crcbyte b) ∨ ∃ d, i = .crc8 d) :
    ExecEnds i s (setAcc v s)
  /-- ENCODE or DECODE with a result (R141, R145) -/
  | codec {i : Instr} {s : State} (v : Response) (hi : (∃ f u p, i = .encode f u p) ∨ ∃ b, i = .decode b)
    (hv : ∀ x, v ≠ .fail x) : ExecEnds i s (respond v s)
  /-- a command raises before it did anything else (R238) -/
  | raised {i : Instr} {s : State} (x : Exn)
    (hi : (∃ f u p, i = .encode f u p ∨ i = .xstart f u p) ∨ (∃ b, i = .decode b) ∨ i = .rdframe ∨
      i ∈ [Instr.illegal0, .illegal7, .illegalA, .illegalB, .illegalC, .illegalD, .illegalE, .illegalF])
    (hx : x ≠ .timeout) : ExecEnds i s (raise x s)
  /-- XSTART starts an exchange (R192) -/
  | started {f u : Byte} {p : List Byte} {s : State} (frame : List Byte) (ha : s.hsState.active = false)
    (he : encodeFn s.poly s.init f.toNat u.toNat p = .ok frame) :
    ExecEnds (.xstart f u p) s (respond .unit (loadFrame frame s))
  /-- XABANDON (R201) -/
  | abandoned {s : State} : ExecEnds .xabandon s (respond .unit { s with hsState := .idle })
  /-- RDFRAME with a transport fault (R182) -/
  | readFault {s : State} (t : State) (ha : s.hsState.active = false) (hr : srTryRead s = (.fault, t)) :
    ExecEnds .rdframe s (raise .transportFault t)
  /-- RDFRAME without a complete frame (R176) -/
  | readPending {s : State} (t : State) (ha : s.hsState.active = false) (hr : srTryRead s = (.pending, t)) :
    ExecEnds .rdframe s (respond .pending t)
  /-- RDFRAME with a frame (R178) -/
  | readFrame {s : State} (t : State) (f : List Byte) (ha : s.hsState.active = false) (hr : srTryRead s = (.frame f, t)) :
    ExecEnds .rdframe s (respond (.received f) t)
  /-- XSEND where it is enabled (R193) -/
  | sent {s : State} (h : s.hsState = .sending) (hc : s.txCnt.toNat ≤ 18) :
    ExecEnds .xsend s (sendFrame (memRead s.txb 0 s.txCnt.toNat) s)
  /-- XPOLL where it is enabled (R194) -/
  | polled {s : State} (h : s.hsState = .awaitingReply) : ExecEnds .xpoll s (pollOnce s)
  /-- XSEND or XPOLL where it is not enabled (R191) -/
  | disabled {i : Instr} {s : State}
    (hi : i = .xsend ∧ s.hsState ≠ .sending ∨ i = .xpoll ∧ s.hsState ≠ .awaitingReply) : ExecEnds i s s
  /-- a frame arrives (R67) -/
  | arrived {i : Instr} {s : State} (hi : (encode i).1 = .line ∨ (encode i).1 = .peer) :
    ExecEnds i s (arriveBytes (encode i).2 s)

/-- An instruction that answers a next state ends in one of these ways. -/
theorem exec_cases {i : Instr} {s t : State} (h : exec i s = .next t) : ExecEnds i s t := by
  have hencode : ∀ {p : List Byte} {f u : Nat} {x : Exn}, encodeFn s.poly s.init f u p = .error x → x ≠ .timeout := by
    intro p f u x hx
    simp only [encodeFn] at hx
    split at hx
    · injection hx with hx; subst hx; exact nofun
    · cases hx
  have hdecode : ∀ {b : List Byte} {x : Exn}, decodeFn s.poly s.init b = .error x → x ≠ .timeout := by
    intro b x hx
    unfold decodeFn at hx
    split at hx
    · dsimp only at hx
      split at hx
      · injection hx with hx; subst hx; exact nofun
      · cases hx
    · injection hx with hx; subst hx; exact nofun
  cases i with
  | crcinit => injection h with h; subst h; exact .acc _ (.inl rfl)
  | crcbyte b => injection h with h; subst h; exact .acc _ (.inr (.inl ⟨b, rfl⟩))
  | crc8 d => injection h with h; subst h; exact .acc _ (.inr (.inr ⟨d, rfl⟩))
  | encode f u p =>
    simp only [exec, execEncode] at h
    split at h <;> injection h with h <;> subst h
    · exact .raised _ (.inl ⟨f, u, p, .inl rfl⟩) (hencode ‹_›)
    · exact .codec _ (.inl ⟨f, u, p, rfl⟩) nofun
  | decode b =>
    simp only [exec, execDecode] at h
    split at h <;> injection h with h <;> subst h
    · exact .raised _ (.inr (.inl ⟨b, rfl⟩)) (hdecode ‹_›)
    · exact .codec _ (.inr ⟨b, rfl⟩) nofun
  | rdframe =>
    simp only [exec, execRdframe] at h
    split at h
    · injection h with h; subst h; exact .raised _ (.inr (.inr (.inl rfl))) nofun
    · rename_i hn
      have ha : s.hsState.active = false := by simpa using hn
      split at h <;> injection h with h <;> subst h
      · exact .readFault _ ha ‹_›
      · exact .readPending _ ha ‹_›
      · exact .readFrame _ _ ha ‹_›
  | xstart f u p =>
    simp only [exec, execXstart] at h
    split at h
    · injection h with h; subst h; exact .raised _ (.inl ⟨f, u, p, .inr rfl⟩) nofun
    · rename_i hn
      have ha : s.hsState.active = false := by simpa using hn
      split at h <;> injection h with h <;> subst h
      · exact .raised _ (.inl ⟨f, u, p, .inr rfl⟩) (hencode ‹_›)
      · exact .started _ ha ‹_›
  | xabandon => injection h with h; subst h; exact .abandoned
  | xsend =>
    by_cases hs : s.hsState = .sending
    · by_cases hc : s.txCnt.toNat ≤ 18
      · rw [exec_xsend hs hc] at h
        injection h with h; subst h; exact .sent hs hc
      · simp only [exec, execXsend, hs, Config.bufMax, if_neg hc] at h
        cases h
    · rw [exec_xsend_idle hs] at h
      injection h with h; subst h; exact .disabled (.inl ⟨rfl, hs⟩)
  | xpoll =>
    by_cases hs : s.hsState = .awaitingReply
    · rw [exec_xpoll hs] at h
      injection h with h; subst h; exact .polled hs
    · rw [exec_xpoll_idle hs] at h
      injection h with h; subst h; exact .disabled (.inr ⟨rfl, hs⟩)
  | frame f u r c p => injection h with h; subst h; exact .arrived (.inl rfl)
  | frameEncoded f u c p => injection h with h; subst h; exact .arrived (.inr rfl)
  | frameAck a b c d e f g j => injection h with h; subst h; exact .arrived (.inl rfl)
  | frameNack a b c d e f g j => injection h with h; subst h; exact .arrived (.inl rfl)
  | _ => injection h with h; subst h; exact .raised _ (.inr (.inr (.inr (by simp)))) nofun

/-- Using up the agenda's head changes nothing else. -/
theorem nextItem_state (s : State) : (nextItem s).2 = { s with agenda := (nextItem s).2.agenda } := by
  unfold nextItem
  split <;> rfl

/-- How a step ends when it answers a next state. -/
inductive StepEnds (s t : State) : Prop where
  | instr (i : Instr) (s1 : State) (hn : nextItem s = (.instr i, s1)) (h : ExecEnds i s1 t)
  | env (e : EnvEvent) (s1 : State) (hn : nextItem s = (.env e, s1)) (h : t = applyEnv e s1)
  | quiet (hn : nextItem s = (.quiet, t))

/-- A step that answers a next state ends in one of these ways. -/
theorem step_cases {s t : State} (h : step s = .next t) : StepEnds s t := by
  unfold step at h
  split at h
  · exact .instr _ _ ‹_› (exec_cases h)
  · injection h with h; exact .env _ _ ‹_› h.symm
  · injection h with h; subst h; exact .quiet ‹_›
  · cases h

end Sys2Proof.Machine
end

