-- ==== Sys2Proof/Laws/Run.lean ====
section
/-! SUPPORT. Runs of several steps, the clock, and the steps an agenda's head selects. -/

namespace Sys2Proof.Machine

theorem run_next {s t : State} (h : step s = .next t) (k : Nat) :
    Host.Core.run Sys2Proof.core (k + 1) s = Host.Core.run Sys2Proof.core k t := by
  have h : Sys2Proof.core.step s = .next t := h
  simp only [Host.Core.run]
  rw [h]

theorem run_add (a b : Nat) {s t : State} (h : Host.Core.run Sys2Proof.core a s = .next t) :
    Host.Core.run Sys2Proof.core (a + b) s = Host.Core.run Sys2Proof.core b t := by
  induction a generalizing s with
  | zero =>
    simp only [Host.Core.run] at h
    injection h with h
    subst h
    rw [Nat.zero_add]
  | succ a ih =>
    rw [Nat.succ_add]
    simp only [Host.Core.run] at h ⊢
    cases hs : Sys2Proof.core.step s <;> rw [hs] at h <;> first | exact ih h | cases h

theorem step_env {s : State} {e : EnvEvent} {rest : List Event} (h : s.agenda = .env e :: rest) :
    step s = .next (applyEnv e { s with agenda := rest }) := by
  simp only [step, nextItem, h, itemOfEvent]

/-- On the controller's turn, waiting for the reply (R26). -/
theorem step_auto_poll {s : State} {rest : List Event} (h : s.agenda = .auto :: rest) (hs : s.hsState = .awaitingReply) :
    step s = .next (pollOnce { s with agenda := rest }) := by
  have hi : autoItem s = .instr .xpoll := by unfold autoItem; rw [hs]; rfl
  simp only [step, nextItem, h, itemOfEvent, hi]
  exact exec_xpoll hs

/-- On the controller's turn, with a frame to send (R26). -/
theorem step_auto_send {s : State} {rest : List Event} (h : s.agenda = .auto :: rest) (hs : s.hsState = .sending)
    (hc : s.txCnt.toNat ≤ 18) :
    step s = .next (sendFrame (memRead s.txb 0 s.txCnt.toNat) { s with agenda := rest }) := by
  have hi : autoItem s = .instr .xsend := by unfold autoItem; rw [hs]; rfl
  simp only [step, nextItem, h, itemOfEvent, hi]
  exact exec_xsend (s := { s with agenda := rest }) hs hc

/-- R194, R250: as long as fewer than 2^TIMEW units have elapsed, TICK d adds d to the elapsed time. -/
theorem elapsed_advanceTime {s : State} {d : Nat} (ht : TimeOk s) (h : ∀ w, s.timew = some w → elapsed s + d < 2 ^ w) :
    elapsed (advanceTime d s) = elapsed s + d ∧ TimeOk (advanceTime d s) := by
  unfold TimeOk elapsed advanceTime wrapTime at *
  dsimp only
  cases hw : s.timew <;> simp only [hw] at ht h ⊢
  · omega
  · rename_i w
    have h := h w rfl
    have hp : 0 < 2 ^ w := Nat.two_pow_pos w
    refine ⟨?_, Nat.mod_lt _ hp, ht.2⟩
    generalize 2 ^ w = m at *
    -- the send time lies at or before NOW, or NOW has wrapped once past it
    obtain ⟨e, he, hm⟩ : ∃ e : Nat, e < m ∧ ((s.now : Int) - s.tSend = e ∨ (s.now : Int) - s.tSend + m = e) := by
      by_cases hc : s.tSend ≤ s.now
      · exact ⟨s.now - s.tSend, by omega, .inl (by omega)⟩
      · exact ⟨s.now + m - s.tSend, by omega, .inr (by omega)⟩
    have h1 : ((s.now : Int) - s.tSend) % (m : Int) = e := by
      rcases hm with hm | hm
      · rw [hm]; exact Int.emod_eq_of_lt (by omega) (by omega)
      · rw [← Int.add_emod_right, hm]; exact Int.emod_eq_of_lt (by omega) (by omega)
    rw [h1, Int.toNat_natCast] at h ⊢
    have h2 : ((((s.now + d) % m : Nat) : Int) - s.tSend) % (m : Int) = ((e + d : Nat) : Int) := by
      rw [Int.natCast_emod, Int.emod_sub_emod]
      rcases hm with hm | hm
      · rw [show ((s.now + d : Nat) : Int) - s.tSend = ((e + d : Nat) : Int) by omega]
        exact Int.emod_eq_of_lt (by omega) (by omega)
      · rw [← Int.add_emod_right, show ((s.now + d : Nat) : Int) - s.tSend + m = ((e + d : Nat) : Int) by omega]
        exact Int.emod_eq_of_lt (by omega) (by omega)
    rw [h2, Int.toNat_natCast]

/-- With a working transport SR_TryRead does not answer fault, and the transport goes on working. -/
theorem srPayload_healthy {s t : State} {r : SrResult} (hh : transportHealthy s = true) (h : srPayload s = (r, t)) :
    r ≠ .fault ∧ transportHealthy t = true := by
  unfold srPayload at h
  split at h
  · obtain ⟨k, p, c, -, h1, h2⟩ := tRead_healthy (n := srNeed s - s.rxCnt.toNat) hh
    rw [h1] at h
    dsimp only at h
    split at h <;> (injection h with a b; subst a b; exact ⟨nofun, h2⟩)
  · injection h with a b
    subst a b
    exact ⟨nofun, hh⟩

theorem srTryRead_healthy {s t : State} {r : SrResult} (hh : transportHealthy s = true) (h : srTryRead s = (r, t)) :
    r ≠ .fault ∧ transportHealthy t = true := by
  have hf : s.tfault = false := by
    simp only [transportHealthy, Bool.and_eq_true, Bool.not_eq_true'] at hh
    exact hh.1
  unfold srTryRead at h
  split at h
  · rw [show tAvail s = some s.rxq.length by simp [tAvail, hf]] at h
    dsimp only at h
    split at h
    · injection h with a b
      subst a b
      exact ⟨nofun, hh⟩
    · obtain ⟨k, p, c, -, h1, h2⟩ := tRead_healthy (n := Config.hdrLen - s.rxCnt.toNat) hh
      rw [h1] at h
      dsimp only at h
      split at h
      · injection h with a b
        subst a b
        exact ⟨nofun, h2⟩
      · exact srPayload_healthy (by exact h2) h
  · exact srPayload_healthy hh h

/-- Whatever SR_TryRead took, it stands behind the bytes held before (R79). -/
theorem Took.rxStream_eq {s u : State} {got : List Byte} (h : Took s u got) : rxStream u = rxStream s := by
  rw [rxStream, h.held, List.append_assoc, h.queue]
  rfl

/-- With a working transport and no complete frame in the stream SR_TryRead answers Pending and keeps every byte (R176). -/
theorem srTryRead_no_frame {s t : State} {r : SrResult} (hh : transportHealthy s = true) (hw : Memory.wf 18 s.rxb = true)
    (hno : startsWithFrame (rxStream s) = false) (h : srTryRead s = (r, t)) :
    r = .pending ∧ transportHealthy t = true ∧ Memory.wf 18 t.rxb = true ∧ RxPartial t ∧ rxStream t = rxStream s := by
  obtain ⟨h1, h2⟩ := srTryRead_healthy hh h
  obtain ⟨got, u, ht, he⟩ := srTryRead_cases s hw
  rw [h] at he
  have hst := ht.rxStream_eq
  cases he with
  | fault p _ => exact absurd rfl h1
  | pending hp _ => exact ⟨rfl, h2, ht.wf, hp, hst⟩
  | frame h3 hn _ =>
    exfalso
    have hlen : (rxStream u).length = u.rxCnt.toNat + u.rxq.length := by simp [rxStream]
    unfold srNeed at hn
    rw [← heldBytes_length_byte (by omega)] at hn
    rw [← hst] at hno
    generalize rxStream u = l at *
    match l, hlen, hn, hno with
    | _ :: _ :: _ :: _, hlen, hn, hno =>
      simp only [startsWithFrame, decide_eq_false_iff_not, List.length_cons, List.getD_cons_succ, List.getD_cons_zero] at hno hn hlen
      omega
    | [_, _], hlen, _, _ => simp only [List.length_cons, List.length_nil] at hlen; omega
    | [_], hlen, _, _ => simp only [List.length_cons, List.length_nil] at hlen; omega
    | [], hlen, _, _ => simp only [List.length_nil] at hlen; omega

/-- What SR_TryRead does to the stream of held and waiting bytes: only a frame handed over leaves it (R180). -/
theorem srTryRead_stream {s t : State} {r : SrResult} (hw : Memory.wf 18 s.rxb = true) (hp : RxPartial s)
    (h : srTryRead s = (r, t)) :
    RxPartial t ∧ ((r ≠ .fault → r ≠ .pending → ∃ f, r = .frame f ∧ t.rxCnt = 0 ∧ f ++ rxStream t = rxStream s) ∧
      (r = .fault ∨ r = .pending → rxStream t = rxStream s)) := by
  obtain ⟨got, u, ht, he⟩ := srTryRead_cases s hw
  rw [h] at he
  have hst := ht.rxStream_eq
  cases he with
  | fault p hx =>
    refine ⟨?_, fun hf => absurd rfl hf, fun _ => hst⟩
    rcases hx with ⟨-, rfl⟩ | hx
    · exact hp
    · exact hx
  | pending hx _ => exact ⟨hx, fun _ hf => absurd rfl hf, fun _ => hst⟩
  | frame h3 hn he =>
    refine ⟨.inl (by show (0 : BitVec 5).toNat < 3; decide), fun _ _ => ⟨_, rfl, rfl, ?_⟩, fun hf => by simp at hf⟩
    rw [← hst, rxStream, rxStream, heldBytes, heldBytes, he hp.le_need]
    simp [memRead]

end Sys2Proof.Machine
end

