-- ==== Sys2Proof/Tests/Slice0.lean ====
section
/-! SUPPORT. Tests. Expected values come from spec/95_test_vectors.md (V numbers) and from the encoding tables of spec/30_encoding.md.
Then the witnesses: for each statement with hypotheses, a concrete state and operands that meet them. -/

set_option maxRecDepth 20000

namespace Sys2Proof.Tests

open Sys2Proof Sys2Proof.Machine

/-! ### Helpers -/

def nextOf : Host.Outcome State Fault Refusal → Option State
  | .next s => some s
  | .fault _ => none
  | .refused _ => none

/-- One field of the state after the step of one agenda entry. -/
def after {α : Type} (e : Event) (s : State) (field : State → α) : Option α :=
  (nextOf (step { s with agenda := [e] })).map field

/-- The response of one command. -/
def answer (bytes : List Byte) (s : State) : Option Response :=
  (after (.cmd bytes) s fun t => t.responses.getLast?).join

/-- A buffer holding the bytes. -/
def loaded (bytes : List Byte) : Memory := memWrite [] 0 bytes

/-- No exchange active, held bytes and queue as given, the reference transport. -/
def idleWith (held rxq : List Byte) : State :=
  { State.reset with readPolicy := .greedy, rxb := loaded held, rxCnt := BitVec.ofNat 5 held.length, rxq := rxq, now := 102 }

/-- The frame of V1. -/
def frame1 : List Byte := [0x91, 0x09, 0xE1, 1, 2, 3, 4, 5, 6, 7, 8, 9]

/-- An exchange started with the frame of V1, not sent yet (V50). -/
def sendingState : State :=
  { idleWith [] [] with hsState := .sending, txb := loaded frame1, txCnt := 12, now := 100 }

/-- The same exchange sent at 100 and now at 102 (V52). -/
def waitingWith (held rxq : List Byte) : State :=
  { idleWith held rxq with hsState := .awaitingReply, txb := loaded frame1, txCnt := 12, tSend := 100, txlog := frame1 }

/-! ### WellFormed: an ill-formed term for each check -/

theorem test_wf_encode_payload : (Instr.encode 0 0 (List.replicate 256 0)).wf = false := by decide
theorem test_wf_encode_payload_limit : (Instr.encode 0 0 (List.replicate 255 0)).wf = true := by decide
theorem test_wf_xstart_payload : (Instr.xstart 0 0 (List.replicate 256 0)).wf = false := by decide
theorem test_wf_decode_buffer : (Instr.decode (List.replicate 19 0)).wf = false := by decide
theorem test_wf_frame_length : (Instr.frame 0 0 0 1 (List.replicate 16 0)).wf = false := by decide
theorem test_wf_frame_class : (Instr.frame 0x08 1 0 0x4E []).wf = false := by decide
theorem test_wf_frameEncoded_length : (Instr.frameEncoded 0 0 0 (List.replicate 16 0)).wf = false := by decide
theorem test_wf_frameEncoded_checksum : (Instr.frameEncoded 0x08 1 0x4F []).wf = false := by decide
theorem test_wf_frameAck_length : (Instr.frameAck false false false false 1 0 0 (List.replicate 16 0)).wf = false := by decide
theorem test_wf_frameAck_checksum : (Instr.frameAck false false false false 1 0 0x4F []).wf = false := by decide
theorem test_wf_frameNack_length : (Instr.frameNack false false false false 0 0 0 (List.replicate 16 0)).wf = false := by decide
theorem test_wf_frameNack_checksum : (Instr.frameNack false false false false 1 0 0x16 []).wf = false := by decide

/-! ### Decode: one word for every constructor, written out from R101, R102, R104, R90, and what is refused -/

theorem test_decode_crcinit : decode .cmd [0b0001] = .ok .crcinit := by decide
theorem test_decode_crcbyte : decode .cmd [0b0010, 0x91] = .ok (.crcbyte 0x91) := by decide
theorem test_decode_crc8 : decode .cmd [0b0011, 0x41, 0x00] = .ok (.crc8 [0x41, 0x00]) := by decide
theorem test_decode_encode : decode .cmd [0b0100, 0x3F, 9] = .ok (.encode 0x3F 9 []) := by decide
theorem test_decode_decode : decode .cmd [0b0101, 0x41, 0x00, 0x4E] = .ok (.decode [0x41, 0x00, 0x4E]) := by decide
theorem test_decode_rdframe : decode .cmd [0b0110] = .ok .rdframe := by decide
theorem test_decode_xstart : decode .cmd [0b1000, 0x10, 2, 0xAA] = .ok (.xstart 0x10 2 [0xAA]) := by decide
theorem test_decode_xabandon : decode .cmd [0b1001] = .ok .xabandon := by decide
theorem test_decode_illegal0 : decode .cmd [0b0000, 0x55] = .ok .illegal0 := by decide
theorem test_decode_illegal7 : decode .cmd [0b0111] = .ok .illegal7 := by decide
theorem test_decode_illegalA : decode .cmd [0b1010] = .ok .illegalA := by decide
theorem test_decode_illegalB : decode .cmd [0b1011] = .ok .illegalB := by decide
theorem test_decode_illegalC : decode .cmd [0b1100] = .ok .illegalC := by decide
theorem test_decode_illegalD : decode .cmd [0b1101] = .ok .illegalD := by decide
theorem test_decode_illegalE : decode .cmd [0b1110] = .ok .illegalE := by decide
theorem test_decode_illegalF : decode .cmd [0b1111] = .ok .illegalF := by decide
theorem test_decode_xsend : decode .auto [0b001] = .ok .xsend := by decide
theorem test_decode_xpoll : decode .auto [0b010] = .ok .xpoll := by decide
theorem test_decode_frame : decode .line [0b01000001, 0b00000000, 0x4F] = .ok (.frame 0b01000 0b001 0 0x4F []) := by decide
theorem test_decode_frameEncoded : decode .peer [0b10000010, 0b00000001, 0x97, 0xAA] = .ok (.frameEncoded 0b10000 0b010 0x97 [0xAA]) := by
  decide
theorem test_decode_frameAck : decode .line [0b01010011, 0b00000010, 0x36, 0xDE, 0xAD] =
    .ok (.frameAck false false true false 0b011 0 0x36 [0xDE, 0xAD]) := by decide
theorem test_decode_frameNack : decode .line [0b10011001, 0b00000010, 0xCD, 0x48, 0x69] =
    .ok (.frameNack true false true true 0b001 0 0xCD [0x48, 0x69]) := by decide
/-- V23: the reserved nibble is kept, and ignored for the class. -/
theorem test_decode_reserved_nibble : decode .line [0x41, 0xA0, 0x27] = .ok (.frameAck false false false false 1 0xA 0x27 []) := by decide
/-- The other six codes of HS_STATE enable no step (R103). -/
theorem test_decode_auto_none : [0, 3, 4, 5, 6, 7].map (fun c => decode .auto [c]) = List.replicate 6 (.error .noStepEnabled) := by decide
theorem test_decode_refused : decode .cmd [] = .error .noCode ∧ decode .cmd [0x02] = .error .operandMissing ∧
    decode .cmd [0x01, 0x00] = .error .operandExtra ∧ decode .cmd [0x04, 0x00] = .error .operandMissing ∧
    decode .cmd (0x08 :: List.replicate 258 0) = .error .payloadOverPort ∧
    decode .cmd (0x05 :: List.replicate 19 0) = .error .bufferOverPort ∧ decode .line [0x41, 0x00] = .error .headerMissing ∧
    decode .line [0x41, 0x01, 0x4E] = .error .notWholeFrame ∧ decode .peer [0x41, 0xA0, 0x27] = .error .notEncoded := by decide

/-- Words numbered as the opcode table numbers them: a CMD code, an AUTO code, a frame header of 24 bits. -/
theorem test_decodeTableWord : decodeTableWord 8 0x6 = some .rdframe ∧ decodeTableWord 8 0x8 = some (.xstart 0 0 []) ∧
    decodeTableWord 3 0x2 = some .xpoll ∧ decodeTableWord 24 0x41004F = some (.frame 0x08 1 0 0x4F []) ∧
    decodeTableWord 24 0x41004E = some (.frameAck false false false false 1 0 0x4E []) := by decide

/-- withFetchWord makes the very next step run the word's instruction. -/
theorem test_withFetchWord : (nextItem (State.reset.withFetchWord 8 0x9)).1 = .instr .xabandon ∧
    (nextItem (State.reset.withFetchWord 3 0x1)).1 = .instr .xsend ∧
    (nextItem (State.reset.withFetchWord 24 0x010015)).1 = .instr (.frameNack false false false false 1 0 0x15 []) := by decide

/-! ### Memory -/

/-- Writing the value an unlisted address reads as removes the entry. -/
theorem test_memory_write_zero : Memory.write [(0, 0x41), (3, 0x07)] 3 0x00 = [(0, 0x41)] := by decide
theorem test_memory_wf_refuses : Memory.wf 18 [(3, 1), (0, 1)] = false ∧ Memory.wf 18 [(0, 0)] = false ∧ Memory.wf 18 [(18, 1)] = false := by
  decide

/-! ### The Checksum unit (V5 to V13) -/

theorem test_crc8_nine_digits : after (.cmd [0x03, 0x31, 0x32, 0x33, 0x34, 0x35, 0x36, 0x37, 0x38, 0x39]) (idleWith [] []) State.acc =
    some 0xF4 := by decide
theorem test_crc8_empty : answer [0x03] { idleWith [] [] with acc := 0x55 } = some (.acc 0x00) := by decide
/-- V11: other polynomial and init. -/
theorem test_crc8_function : crc8 [0x31, 0x32, 0x33, 0x34, 0x35, 0x36, 0x37, 0x38, 0x39] 0x31 0xFF = 0xF7 ∧ crc8 [0x01, 0x02, 0x03] 0x07 0xFF = 0x63 := by
  decide
theorem test_crcinit : answer [0x01] { idleWith [] [] with acc := 0x55 } = some (.acc 0x00) := by decide
theorem test_crcbyte : answer [0x02, 0x91] (idleWith [] []) = some (.acc 0xFE) := by decide
/-- V9: the second byte. -/
theorem test_crcbyte_second : after (.cmd [0x02, 0x09]) { idleWith [] [] with acc := 0xFE } State.acc = some 0xCB := by decide

/-! ### The Frame Codec (V1 to V4, V19, V21, V22) -/

theorem test_encode_end_to_end : answer (0x04 :: 0x12 :: 1 :: [1, 2, 3, 4, 5, 6, 7, 8, 9]) (idleWith [] []) = some (.encoded frame1) := by decide
theorem test_encode_masks : answer [0x04, 0x3F, 9] (idleWith [] []) = some (.encoded [0xF9, 0x00, 0xA9]) := by decide
/-- V3: sixteen bytes. -/
theorem test_encode_too_long : after (.cmd (0x04 :: 0 :: 0 :: List.replicate 16 0)) (idleWith [] []) (fun t => (t.err, t.errInfo)) =
    some (2, 0x0010) := by decide
theorem test_decode_end_to_end : answer (0x05 :: frame1) (idleWith [] []) =
    some (.packet ⟨0x12, 1, [1, 2, 3, 4, 5, 6, 7, 8, 9], 0xE1⟩ ⟨true, false, false, true, false⟩) := by decide
theorem test_decode_mismatch : after (.cmd [0x05, 0x41, 0x00, 0x4F]) (idleWith [] []) (fun t => (t.err, t.errInfo)) = some (3, 0x4F4E) := by
  decide
theorem test_decode_short : answer [0x05, 0x41, 0x00] (idleWith [] []) = some (.fail (.bufferTooShort 2)) := by decide
/-- V22: no length cross-check. -/
theorem test_decode_no_cross_check : answer [0x05, 0x09, 0x01, 0x59, 0x0A, 0x0B, 0x0C] (idleWith [] []) =
    some (.packet ⟨0x01, 1, [0x0A, 0x0B, 0x0C], 0x59⟩ ⟨false, false, false, false, true⟩) := by decide

/-! ### The Stream Reader (V40 to V48) -/

/-- V42, last row: the held bytes and the one that completes the frame; the byte behind it stays. -/
theorem test_rdframe_completes : after (.cmd [0x06]) (idleWith [0x53, 0x02, 0x36, 0xDE] [0xAD, 0x41])
    (fun t => (t.responses, t.rxCnt, t.rxq)) = some ([.received [0x53, 0x02, 0x36, 0xDE, 0xAD]], 0, [0x41]) := by decide
/-- V45: one byte per TRead, the gate counts the held byte. -/
theorem test_rdframe_one_byte : after (.cmd [0x06]) { idleWith [0x41] [0x00, 0x4E] with readPolicy := .answers [.upTo 1] }
    (fun t => (t.responses, heldBytes t, t.rxq)) = some ([.pending], [0x41, 0x00], [0x4E]) := by decide
/-- V47: fault behind the header; the held bytes stay, HS_STATE stays IDLE. -/
theorem test_rdframe_fault : after (.cmd [0x06]) { idleWith [0x15, 0x03, 0x79] [] with tfault := true }
    (fun t => (t.err, heldBytes t, t.hsState)) = some (4, [0x15, 0x03, 0x79], .idle) := by decide
/-- V48. -/
theorem test_rdframe_busy : after (.cmd [0x06]) (waitingWith [] [0x41, 0x00, 0x4E]) (fun t => (t.err, t.errInfo, t.rxq.length)) =
    some (6, 0x0002, 3) := by decide

/-! ### The Handshake Controller (V50 to V57) -/

theorem test_xstart : after (.cmd (0x08 :: 0x12 :: 1 :: [1, 2, 3, 4, 5, 6, 7, 8, 9])) (idleWith [] [])
    (fun t => (memRead t.txb 0 12, t.txCnt, t.hsState)) = some (frame1, 12, .sending) := by decide
/-- V55, last line: Busy before PayloadTooLong. -/
theorem test_xstart_busy_first : answer (0x08 :: 0 :: 1 :: List.replicate 16 0) (waitingWith [] []) =
    some (.fail (.busy .awaitingReply)) := by decide
theorem test_xsend : after .auto sendingState (fun t => (t.txlog, t.tSend, t.hsState)) = some (frame1, 100, .awaitingReply) := by decide
/-- V57, first line. -/
theorem test_xsend_fault : after .auto { sendingState with tfault := true } (fun t => (t.hsState, t.err, t.tSend)) =
    some (.faulted, 4, 0) := by decide
/-- V52: the first of two frames decides. -/
theorem test_xpoll_first_frame : after .auto (waitingWith [] [0x53, 0x02, 0x36, 0xDE, 0xAD, 0x41, 0x00, 0x4E])
    (fun t => (t.hsState, t.rpFlags, memRead t.rpPay 0 2, t.rxq)) = some (.acked, 0x0A, [0xDE, 0xAD], [0x41, 0x00, 0x4E]) := by decide
/-- V52: a damaged reply; ERR is not written. -/
theorem test_xpoll_corrupt : after .auto (waitingWith [] [0x41, 0x00, 0x4F]) (fun t => (t.hsState, t.csRx, t.csCalc, t.err)) =
    some (.corrupt, 0x4F, 0x4E, 0) := by decide
/-- V53: TIMEW = 4, sent at 14; at 3 it still waits, at 4 it has timed out. -/
theorem test_xpoll_wraps : [3, 4].map (fun now => after .auto { waitingWith [] [] with timew := some 4, tSend := 14, now := now } State.hsState) =
    [some .awaitingReply, some .timedOut] := by decide
/-- V54: a complete frame at a poll after the deadline, in both orders. -/
theorem test_xpoll_orders : [Config.PollOrder.deadlineFirst, .frameFirst].map (fun o =>
    after .auto { waitingWith [] [0x41, 0x00, 0x4E] with pollOrder := o, tSend := 0, now := 6 } (fun t => (t.hsState, t.rxq.length))) =
    [some (.timedOut, 3), some (.acked, 0)] := by decide
/-- R211, R241: a failed transport at a poll after the deadline, in both orders. -/
theorem test_xpoll_orders_fault : [Config.PollOrder.deadlineFirst, .frameFirst].map (fun o =>
    after .auto { waitingWith [] [0x41, 0x00, 0x4E] with pollOrder := o, now := 106, tfault := true } (fun t => (t.hsState, t.err))) =
    [some (.timedOut, 0), some (.faulted, 4)] := by decide
/-- V56: from AWAITING_REPLY with four bytes held. -/
theorem test_xabandon : after (.cmd [0x09]) (waitingWith [0x41, 0x02, 0x35, 0x4F] []) (fun t => (t.hsState, t.rxCnt)) = some (.idle, 4) := by
  decide

/-! ### Reserved codes, the environment (V58, V60) -/

theorem test_illegal : [0x00, 0x07, 0x0A, 0x0B, 0x0C, 0x0D, 0x0E, 0x0F].map (fun c => after (.cmd [c]) (idleWith [] []) (fun t => (t.err, t.errInfo))) =
    [some (7, 0x0), some (7, 0x7), some (7, 0xA), some (7, 0xB), some (7, 0xC), some (7, 0xD), some (7, 0xE), some (7, 0xF)] := by decide
/-- V60, the registers. -/
theorem test_reset_registers : after (.env .reset) { waitingWith [0x41, 0x02, 0x35, 0x4F] [0x4B] with acc := 0xE1, err := 6 }
    (fun t => (t.hsState, t.rxCnt, t.acc, t.err)) = some (.idle, 0, 0x00, 0) := by decide
/-- V60, what RESET does not touch. -/
theorem test_reset_transport : after (.env .reset) { waitingWith [0x41, 0x02, 0x35, 0x4F] [0x4B] with now := 103 }
    (fun t => (t.rxq, t.txlog.length, t.now)) = some ([0x4B], 12, 103) := by decide
theorem test_frame_arrives : after (.line [0x01, 0x00, 0x15]) (waitingWith [] [0x41]) (fun t => (t.hsState, t.rxq)) =
    some (.awaitingReply, [0x41, 0x01, 0x00, 0x15]) := by decide
theorem test_frameAck_arrives : after (.line [0x41, 0x00, 0x4E]) (waitingWith [] []) State.rxq = some [0x41, 0x00, 0x4E] := by decide
theorem test_frameEncoded_arrives : after (.peer [0x82, 0x01, 0x97, 0xAA]) (waitingWith [] []) State.rxq = some [0x82, 0x01, 0x97, 0xAA] := by
  decide
theorem test_frame_corrupt_arrives : after (.line [0x41, 0x00, 0x4F]) (waitingWith [] []) State.rxq = some [0x41, 0x00, 0x4F] := by decide
/-- No autonomous step is enabled in a terminal state (R205). -/
theorem test_quiet : (nextItem { idleWith [] [] with hsState := .acked, agenda := [.auto] }).1 = .quiet := by decide

/-! ### Witnesses: states and operands that meet the hypotheses of the statements -/

/-- A state that is not the state after reset and meets the invariant. -/
theorem witness_Inv : Machine.Inv (waitingWith [0x41, 0x02, 0x35, 0x4F] [0x4B]) where
  txbWf := by decide
  rxbWf := by decide
  rpPayWf := by decide
  txFrame := .inr ⟨by decide, by decide, by decide, by decide, by decide⟩
  txLoaded := by decide
  rxPartial := .inr (by decide)
  corruptPair := by decide
  ackedFlag := by decide
  nackedFlag := by decide
  errNotTimeout := by decide
  time := by show 100 ≤ 102; decide

theorem witness_DecodeOfEncodeIsTheInstruction :
    (Instr.encode 0xFF 0xFF (List.replicate 255 7)).wf = true ∧ (Instr.decode (List.replicate 18 7)).wf = true ∧
    (Instr.frame 0x1F 7 0xF 0x4E [1]).wf = true ∧ (Instr.frameEncoded 0x12 1 0x7D [0x48, 0x69]).wf = true ∧
    (Instr.frameAck false false false false 1 5 0xD3 [0x11, 0x22]).wf = true ∧
    (Instr.frameNack true false true false 1 0 0x7D [0x48, 0x69]).wf = true := by decide

theorem witness_FrameDecodingReadsEveryByte :
    decode .line [0x41, 0xA0, 0x27] = .ok (.frameAck false false false false 1 0xA 0x27 []) ∧
    decode .peer [0x82, 0x01, 0x97, 0xAA] = .ok (.frameEncoded 0x10 2 0x97 [0xAA]) := by decide

theorem witness_DecodedCommandIsWellFormed : decode .cmd [0x18, 0xFF, 9] = .ok (.xstart 0xFF 9 []) := by decide

theorem witness_StepRunsTheDecodedInstruction :
    decode .cmd [0x09] = .ok .xabandon ∧ decode .line [0x01, 0x00, 0x15] = .ok (.frameNack false false false false 1 0 0x15 []) ∧
    decode .peer [0x01, 0x00, 0x15] = .ok (.frameEncoded 0 1 0x15 []) ∧
    ([.cmd [0x09], .line [0x01, 0x00, 0x15], .peer [0x01, 0x00, 0x15]] : List Event).map
      (fun e => ({ waitingWith [] [] with agenda := [e, .auto] } : State).agenda) =
      [[.cmd [0x09], .auto], [.line [0x01, 0x00, 0x15], .auto], [.peer [0x01, 0x00, 0x15], .auto]] := by decide

theorem witness_HsStateSelectsTheAutonomousStep :
    ({ sendingState with agenda := [.auto, .env .fail] } : State).agenda = .auto :: [.env .fail] ∧ (waitingWith [] []).agenda = [] := by
  decide

theorem witness_UncarriedTransactionIsRefused :
    (List.replicate 256 (0 : Byte)).length > 255 ∧ (List.replicate 19 (0 : Byte)).length > 18 ∧
    ({ waitingWith [] [] with agenda := [.cmd (0x04 :: 0 :: 0 :: List.replicate 256 0)] } : State).agenda =
      .cmd (0x04 :: 0 :: 0 :: List.replicate 256 0) :: [] ∧
    ({ waitingWith [] [] with agenda := [.cmd (0x08 :: 0 :: 0 :: List.replicate 256 0)] } : State).agenda =
      .cmd (0x08 :: 0 :: 0 :: List.replicate 256 0) :: [] ∧
    ({ waitingWith [] [] with agenda := [.cmd (0x05 :: List.replicate 19 0)] } : State).agenda =
      .cmd (0x05 :: List.replicate 19 0) :: [] := ⟨by decide, by decide, rfl, rfl, rfl⟩

theorem witness_Crc8ArithmeticLaws : ([0x12, 0x34] : List Byte).length = ([0xAB, 0xCD] : List Byte).length := by decide

theorem witness_PiecewiseCrcEqualsWholeCrc :
    ({ idleWith [] [] with agenda := [.cmd [0x01], .cmd [0x02, 0x91], .cmd [0x02, 0x09], .cmd [0x06]] } : State).agenda =
      .cmd [0x01] :: (([0x91, 0x09] : List Byte).map fun b => .cmd [0x02, b]) ++ [.cmd [0x06]] := by decide

theorem witness_SingleBitErrorIsDetected :
    encodeFn 0x07 0x00 0x12 1 [1, 2, 3, 4, 5, 6, 7, 8, 9] = .ok frame1 ∧ 11 < frame1.length ∧ 7 < 8 := ⟨by rfl, by decide, by decide⟩

theorem witness_EncodeRespondsTheFrame : (List.replicate 15 (0 : Byte)).length ≤ 15 ∧ (List.replicate 16 (0 : Byte)).length > 15 := by decide

theorem witness_DecodeVerifiesAndResponds :
    ([0x41, 0x00] : List Byte).length < 3 ∧
    crc8 [0x41, 0x00] (idleWith [] []).poly (idleWith [] []).init ≠ 0x4F ∧
    crc8 [0x41, 0x00] (idleWith [] []).poly (idleWith [] []).init = 0x4E := by decide

theorem witness_CodecRoundTrip :
    (List.replicate 15 (0 : Byte)).length ≤ 15 ∧
    3 ≤ frame1.length ∧ frame1.length ≤ 18 ∧ (frame1.getD 1 0).toNat = frame1.length - 3 ∧
    decodeFn 0x07 0x00 frame1 = .ok ⟨0x12, 1, [1, 2, 3, 4, 5, 6, 7, 8, 9], 0xE1⟩ :=
  ⟨by decide, by decide, by decide, by decide, by rfl⟩

theorem witness_TReadTakesTheFrontOfTheQueue :
    (tRead 2 (idleWith [] [0x41, 0x00, 0x4E])).1 = some [0x41, 0x00] ∧
    (tRead 2 { idleWith [] [0x41] with tfault := true }).1 = none ∧
    (idleWith [] [0x41]).tfault = false ∧ (idleWith [] [0x41]).readPolicy = .greedy ∧
    ({ idleWith [] [0x41] with readPolicy := .answers [.upTo 2, .fault] } : State).readPolicy = .answers (.upTo 2 :: [.fault]) := by decide

theorem witness_ReceivedFrameHasItsDeclaredLength :
    (srTryRead (idleWith [0x41] [0x00, 0x4E, 0x09])).1 = .frame [0x41, 0x00, 0x4E] := by decide

theorem witness_StreamReaderLosesNoByte :
    Memory.wf 18 (idleWith [0x53, 0x02, 0x36, 0xDE] [0xAD]).rxb = true ∧ RxPartial (idleWith [0x53, 0x02, 0x36, 0xDE] [0xAD]) ∧
    (srTryRead (idleWith [0x53, 0x02, 0x36, 0xDE] [0xAD])).1 = .frame [0x53, 0x02, 0x36, 0xDE, 0xAD] ∧
    (srTryRead (idleWith [0x53, 0x02, 0x36] [0xDE])).1 = .pending ∧
    (srTryRead { idleWith [0x53, 0x02, 0x36] [0xDE] with tfault := true }).1 = .fault :=
  ⟨by decide, .inr (by decide), by decide, by decide, by decide⟩

theorem witness_BusyRefusesRdframeAndXstart : sendingState.hsState = .sending ∧ (waitingWith [] []).hsState = .awaitingReply := by decide

theorem witness_RdframeGateClosedRespondsPending :
    (idleWith [0x41] [0x00]).hsState.active = false ∧ (idleWith [0x41] [0x00]).tfault = false ∧
    (idleWith [0x41] [0x00]).rxCnt.toNat + (idleWith [0x41] [0x00]).rxq.length < 3 := by decide

theorem witness_RdframeRaisesTransportFault :
    ({ idleWith [0x15, 0x03, 0x79] [] with tfault := true } : State).hsState.active = false ∧
    ({ idleWith [0x15, 0x03, 0x79] [] with tfault := true } : State).tfault = true ∧
    RxPartial { idleWith [0x15, 0x03, 0x79] [] with tfault := true } := ⟨by decide, by decide, .inr (by decide)⟩

theorem witness_RdframeHandsOverTheFirstFrame :
    (idleWith [0x53, 0x02] [0x36, 0xDE, 0xAD, 0x41]).hsState.active = false ∧
    (idleWith [0x53, 0x02] [0x36, 0xDE, 0xAD, 0x41]).tfault = false ∧
    (idleWith [0x53, 0x02] [0x36, 0xDE, 0xAD, 0x41]).readPolicy = .greedy ∧
    Memory.wf 18 (idleWith [0x53, 0x02] [0x36, 0xDE, 0xAD, 0x41]).rxb = true ∧
    RxPartial (idleWith [0x53, 0x02] [0x36, 0xDE, 0xAD, 0x41]) ∧
    startsWithFrame (rxStream (idleWith [0x53, 0x02] [0x36, 0xDE, 0xAD, 0x41])) = true :=
  ⟨by decide, by decide, by decide, by decide, .inl (by decide), by decide⟩

theorem witness_RdframeFrame : Memory.wf 18 (waitingWith [0x41, 0x02] [0x35]).rxb = true := by decide

theorem witness_XstartStoresTheFrameAndEntersSending :
    ({ idleWith [] [] with hsState := .timedOut, txb := loaded frame1, txCnt := 12 } : State).hsState.active = false ∧
    ([0x48, 0x69] : List Byte).length ≤ 15 ∧
    Memory.wf 18 ({ idleWith [] [] with hsState := .timedOut, txb := loaded frame1, txCnt := 12 } : State).txb = true := by decide

theorem witness_XstartRefusesLongPayload :
    ({ idleWith [] [] with hsState := .timedOut } : State).hsState.active = false ∧ (List.replicate 16 (0 : Byte)).length > 15 := by decide

theorem witness_XsendWritesTheFrame :
    sendingState.hsState = .sending ∧ sendingState.txCnt.toNat ≤ 18 ∧ sendingState.tfault = false ∧
    ({ sendingState with tfault := true } : State).hsState = .sending ∧
    ({ sendingState with tfault := true } : State).tfault = true := by decide

theorem witness_XpollTimesOutAfterTheDeadline :
    ({ waitingWith [] [] with now := 106 } : State).hsState = .awaitingReply ∧
    ({ waitingWith [] [] with now := 106 } : State).pollOrder = .deadlineFirst ∧
    elapsed { waitingWith [] [] with now := 106 } > ({ waitingWith [] [] with now := 106 } : State).timeout := by decide

theorem witness_XpollWaitsBehindTheGate :
    ({ waitingWith [] [0x41, 0x00] with now := 105 } : State).hsState = .awaitingReply ∧
    elapsed { waitingWith [] [0x41, 0x00] with now := 105 } ≤ ({ waitingWith [] [0x41, 0x00] with now := 105 } : State).timeout ∧
    (waitingWith [] [0x41, 0x00]).tfault = false ∧
    (waitingWith [] [0x41, 0x00]).rxCnt.toNat + (waitingWith [] [0x41, 0x00]).rxq.length < 3 := by decide

theorem witness_XpollReportsTransportFault :
    ({ waitingWith [0x15, 0x03, 0x79] [] with tfault := true } : State).hsState = .awaitingReply ∧
    elapsed { waitingWith [0x15, 0x03, 0x79] [] with tfault := true } ≤ (waitingWith [] []).timeout ∧
    ({ waitingWith [0x15, 0x03, 0x79] [] with tfault := true } : State).tfault = true ∧
    RxPartial { waitingWith [0x15, 0x03, 0x79] [] with tfault := true } := ⟨by decide, by decide, by decide, .inr (by decide)⟩

/-- A waiting exchange whose transport hands over the header and fails at the payload. -/
def failingReadState : State := { waitingWith [] [0x53, 0x02, 0x36, 0xDE] with readPolicy := .answers [.upTo 3, .fault] }

/-- XpollReportsTransportFault, second clause: the poll's read faults. -/
theorem witness_XpollReportsTransportFault_inside_the_read :
    failingReadState.hsState = .awaitingReply ∧ elapsed failingReadState ≤ failingReadState.timeout ∧
    (srTryRead failingReadState).1 = .fault ∧ heldBytes (srTryRead failingReadState).2 = [0x53, 0x02, 0x36] := by decide

/-- A waiting exchange with part of the reply held and a byte behind it. -/
def replyState : State := waitingWith [0x53, 0x02] [0x36, 0xDE, 0xAD, 0x41]

theorem witness_XpollFrameDecidesTheOutcome :
    replyState.hsState = .awaitingReply ∧ elapsed replyState ≤ replyState.timeout ∧ replyState.tfault = false ∧
    replyState.readPolicy = .greedy ∧ Memory.wf 18 replyState.rxb = true ∧ Memory.wf 15 replyState.rpPay = true ∧
    RxPartial replyState ∧ rxStream replyState = 0x53 :: 0x02 :: 0x36 :: [0xDE, 0xAD] ++ [0x41] ∧
    ([0xDE, 0xAD] : List Byte).length = declaredLen 0x02 ∧
    crc8 (0x53 :: 0x02 :: [0xDE, 0xAD]) replyState.poly replyState.init = 0x36 ∧
    rxStream (waitingWith [] [0x41, 0x00, 0x4F]) = 0x41 :: 0x00 :: 0x4F :: [] ++ [] ∧
    crc8 (0x41 :: 0x00 :: []) replyState.poly replyState.init ≠ 0x4F :=
  ⟨by decide, by decide, by decide, by decide, by decide, by decide, .inl (by decide), by decide, by decide, by decide, by decide, by decide⟩

theorem witness_XpollFrame : replyState.hsState = .awaitingReply ∧ Memory.wf 18 replyState.rxb = true := by decide

/-- A waiting exchange with a frame's header and one payload byte queued, whose transport hands over a single byte, then all it may. -/
def shortHeaderState : State := { waitingWith [] [0x53, 0x02, 0x36, 0xDE] with readPolicy := .answers [.upTo 1] }

/-- `replyState` after its deadline. -/
def lateState : State := { replyState with now := 106 }

theorem witness_PollOrdersDifferOnlyAfterTheDeadline :
    elapsed replyState ≤ replyState.timeout ∧ elapsed lateState > lateState.timeout ∧ lateState.tfault = false ∧
    lateState.readPolicy = .greedy ∧ Memory.wf 18 lateState.rxb = true ∧ RxPartial lateState ∧
    rxStream lateState = 0x53 :: 0x02 :: 0x36 :: [0xDE, 0xAD] ++ [0x41] ∧ ([0xDE, 0xAD] : List Byte).length = declaredLen 0x02 ∧
    elapsed { waitingWith [] [0x41] with now := 106 } > (waitingWith [] []).timeout ∧
    ({ waitingWith [] [0x41] with now := 106 } : State).rxCnt.toNat + (waitingWith [] [0x41]).rxq.length < 3 :=
  ⟨by decide, by decide, by decide, by decide, by decide, .inl (by decide), by decide, by decide, by decide, by decide⟩

/-- PollOrdersDifferOnlyAfterTheDeadline: each order, a failed transport, a read that faults, and a read that stays short, after the
deadline. -/
theorem witness_PollOrders_frame_first :
    ([.deadlineFirst, .frameFirst] : List Config.PollOrder).map (fun o =>
      (({ lateState with pollOrder := o } : State).hsState, ({ lateState with pollOrder := o } : State).pollOrder)) =
      [(.awaitingReply, .deadlineFirst), (.awaitingReply, .frameFirst)] ∧
    elapsed { lateState with tfault := true } > lateState.timeout ∧ ({ lateState with tfault := true } : State).tfault = true ∧
    RxPartial { lateState with tfault := true } ∧
    elapsed { failingReadState with now := 106 } > failingReadState.timeout ∧
    (srTryRead { failingReadState with now := 106 }).1 = .fault ∧
    elapsed { shortHeaderState with now := 106 } > shortHeaderState.timeout ∧
    transportHealthy { shortHeaderState with now := 106 } = true ∧ Memory.wf 18 shortHeaderState.rxb = true ∧
    startsWithFrame (rxStream { shortHeaderState with now := 106 }) = false :=
  ⟨by decide, by decide, by decide, .inl (by decide), by decide, by decide, by decide, by decide, by decide, by decide⟩

/-- For the statements about every step that answers a next state: a poll that ends an exchange, a send, and a command that raises. -/
theorem witness_step_next :
    (nextOf (step { replyState with agenda := [.auto] })).map State.hsState = some .acked ∧
    (nextOf (step { sendingState with agenda := [.auto] })).map State.txlog = some frame1 ∧
    (nextOf (step { idleWith [] [] with agenda := [.cmd [0x0A]] })).map State.err = some 7 := by decide

/-- StepWritesOnlyItsRegisters: a step that changes a register. -/
theorem witness_StepWritesOnlyItsRegisters :
    (nextOf (step { idleWith [] [] with agenda := [.cmd [0x02, 0x91]] })).map (hostRead .ACC) = some [0xFE] ∧
    hostRead .ACC { idleWith [] [] with agenda := [.cmd [0x02, 0x91]] } = [0x00] := by decide

/-- RaiseChangesOnlyErrAndErrInfo: a raise that changes nothing else, and RDFRAME's TransportFault. -/
theorem witness_RaiseChangesOnlyErrAndErrInfo :
    (nextOf (exec (.decode [0x41]) (idleWith [] []))).map State.responses = some ([] ++ [.fail (.bufferTooShort 1)]) ∧
    (nextOf (exec .rdframe { idleWith [] [] with tfault := true })).map State.responses = some ([] ++ [.fail .transportFault]) := by decide

/-- ErrIsSticky: ERR changed by a raise, by FAULTED, by RESET. -/
theorem witness_ErrIsSticky :
    (nextOf (step { idleWith [] [] with agenda := [.cmd [0x0A]] })).map State.err = some 7 ∧
    (nextOf (step { sendingState with tfault := true })).map State.err = some 4 ∧
    (nextOf (step { idleWith [] [] with err := 6, agenda := [.env .reset] })).map State.err = some 0 := by decide

theorem witness_TimeoutIsReportedWithinOnePollingInterval :
    (waitingWith [0x41] [0x00]).hsState = .awaitingReply ∧ TimeOk (waitingWith [0x41] [0x00]) ∧
    (∀ w, (waitingWith [0x41] [0x00]).timew = some w → 5 + 3 < 2 ^ w) ∧
    elapsed (waitingWith [0x41] [0x00]) ≤ (waitingWith [0x41] [0x00]).timeout ∧
    transportHealthy (waitingWith [0x41] [0x00]) = true ∧ Memory.wf 18 (waitingWith [0x41] [0x00]).rxb = true ∧
    startsWithFrame (rxStream (waitingWith [0x41] [0x00])) = false ∧
    ({ waitingWith [0x41] [0x00] with agenda := [.env (.tick 3), .auto, .env (.tick 2), .auto] } : State).agenda = pollRounds [3, 2] ∧
    (∀ d ∈ [3, 2], d ≤ 3) ∧ 5 < elapsed (waitingWith [0x41] [0x00]) + [3, 2].sum :=
  ⟨by decide, by show 100 ≤ 102; decide, nofun, by decide, by decide, by decide, by decide, by decide, by decide, by decide⟩

/-- With TIMEW = 4 the width premise holds as well. -/
theorem witness_TimeoutIsReported_finite_width :
    TimeOk { waitingWith [] [] with timew := some 4, tSend := 14, now := 3 } ∧ 5 + 3 < 2 ^ 4 ∧
    elapsed { waitingWith [] [] with timew := some 4, tSend := 14, now := 3 } ≤ 5 := ⟨⟨by decide, by decide⟩, by decide, by decide⟩

theorem witness_EveryExchangeEnds :
    sendingState.hsState = .sending ∧ sendingState.txCnt.toNat ≤ 18 ∧
    (∀ w, sendingState.timew = some w → (([([.arrive 0x41], 1), ([.fail, .repair], 1), ([], 2), ([], 1), ([], 1), ([], 1), ([], 1)] :
      List (List EnvEvent × Nat)).map (·.2)).sum < 2 ^ w) ∧
    ({ sendingState with agenda := exchangeRounds [([.arrive 0x41], 1), ([.fail, .repair], 1), ([], 2), ([], 1), ([], 1), ([], 1), ([], 1)] } :
      State).agenda = exchangeRounds [([.arrive 0x41], 1), ([.fail, .repair], 1), ([], 2), ([], 1), ([], 1), ([], 1), ([], 1)] ∧
    (∀ r ∈ ([([.arrive 0x41], 1), ([.fail, .repair], 1), ([], 2), ([], 1), ([], 1), ([], 1), ([], 1)] : List (List EnvEvent × Nat)),
      1 ≤ r.2 ∧ ∀ e ∈ r.1, e.ofTransport = true) ∧
    sendingState.timeout + 2 ≤ 7 := ⟨by decide, by decide, nofun, rfl, by decide, by decide⟩

theorem witness_ReservedCodesRaiseIllegalCommand :
    (Instr.illegalF, (0xF : BitVec 4)) ∈ [(Instr.illegal0, (0x0 : BitVec 4)), (.illegal7, 0x7), (.illegalA, 0xA), (.illegalB, 0xB),
      (.illegalC, 0xC), (.illegalD, 0xD), (.illegalE, 0xE), (.illegalF, 0xF)] ∧
    ({ idleWith [] [] with agenda := [.cmd [0x3F, 0x55]] } : State).agenda =
      .cmd (((0x3 : BitVec 4) ++ (0xF : BitVec 4) : BitVec 8) :: [0x55]) :: [] := by decide

theorem witness_EnvironmentStepsChangeNoRegister :
    ([.arrive 0x41, .fail, .repair, .tick 3] : List EnvEvent).map (fun e => ({ waitingWith [] [] with agenda := [.env e] } : State).agenda) =
      [.env (.arrive 0x41) :: [], .env .fail :: [], .env .repair :: [], .env (.tick 3) :: []] ∧
    (waitingWith [] []).timew = none ∧ ({ waitingWith [] [] with timew := some 4 } : State).timew = some 4 := by decide

theorem witness_ResetPutsEveryRegisterToItsResetValue :
    ({ waitingWith [] [] with agenda := [.env .reset, .auto] } : State).agenda = .env .reset :: [.auto] := by decide

theorem witness_NoBufferAccessOutOfRange : Machine.Inv (waitingWith [0x41, 0x02, 0x35, 0x4F] [0x4B]) := witness_Inv

theorem witness_StepKeepsTheInvariant :
    Machine.Inv (waitingWith [0x41, 0x02, 0x35, 0x4F] [0x4B]) ∧
    (nextOf (step (waitingWith [0x41, 0x02, 0x35, 0x4F] [0x4B]))).map State.hsState = some .acked := ⟨witness_Inv, by decide⟩

/-- DeliveredFrameDecidesTheExchange: a frame of each of the four rows, and the poll after it. -/
theorem witness_DeliveredFrameDecidesTheExchange :
    (waitingWith [] []).hsState = .awaitingReply ∧ elapsed (waitingWith [] []) ≤ (waitingWith [] []).timeout ∧
    (waitingWith [] []).tfault = false ∧ (waitingWith [] []).readPolicy = .greedy ∧ (waitingWith [] []).poly = 0x07 ∧
    (waitingWith [] []).init = 0x00 ∧ (waitingWith [] []).rxCnt = 0 ∧ (waitingWith [] []).rxq = [] ∧
    Memory.wf 18 (waitingWith [] []).rxb = true ∧ Memory.wf 15 (waitingWith [] []).rpPay = true ∧
    ([.frame 0x08 1 0 0x4F [], .frameEncoded 0x10 2 0x97 [0xAA], .frameAck false false false false 1 0 0x4E [],
      .frameNack false false false false 1 0 0x15 []] : List Instr).all (fun i => i.wf && (nextOf (exec i (waitingWith [] []))).isSome) = true := by
  decide

/-- No exchange active, and the three causes of Pending (R176): the closed gate, a short header read, a starved payload. -/
def pendingStates : List State :=
  [idleWith [0x41] [0x00], { shortHeaderState with hsState := .idle }, idleWith [0x53, 0x02, 0x36] [0xDE]]

/-- RdframeResponseTellsWhatLeftTheStream, first clause: each cause of Pending, and it is Pending. -/
theorem witness_RdframeResponse_pending :
    pendingStates.all (fun s => !s.hsState.active && transportHealthy s && Memory.wf 18 s.rxb && !startsWithFrame (rxStream s)) = true ∧
    pendingStates.map (fun s => (srTryRead s).1) = [.pending, .pending, .pending] ∧
    pendingStates.map (fun s => heldBytes (srTryRead s).2) = [[0x41], [0x53], [0x53, 0x02, 0x36, 0xDE]] := by decide

/-- RdframeResponseTellsWhatLeftTheStream, second clause: a partial frame held, and each of the three responses. -/
theorem witness_RdframeResponse_any_transport :
    (idleWith [0x53, 0x02, 0x36] [0xDE, 0xAD]).hsState.active = false ∧
    Memory.wf 18 (idleWith [0x53, 0x02, 0x36] [0xDE, 0xAD]).rxb = true ∧ RxPartial (idleWith [0x53, 0x02, 0x36] [0xDE, 0xAD]) ∧
    ([.greedy, .answers [.upTo 1], .answers [.fault]] : List ReadPolicy).map
      (fun p => answer [0x06] { idleWith [0x53, 0x02, 0x36] [0xDE, 0xAD] with readPolicy := p }) =
      [some (.received [0x53, 0x02, 0x36, 0xDE, 0xAD]), some .pending, some (.fail .transportFault)] :=
  ⟨by decide, by decide, .inr (by decide), by decide⟩

/-- XpollPendingKeepsTheStream, first clause: each cause of Pending. -/
theorem witness_XpollPending :
    (pendingStates.map fun s => { s with hsState := .awaitingReply, tSend := 100 }).all (fun s =>
      decide (s.hsState = .awaitingReply) && decide (elapsed s ≤ s.timeout) && transportHealthy s && Memory.wf 18 s.rxb &&
      !startsWithFrame (rxStream s)) = true := by decide

/-- XpollPendingKeepsTheStream, second clause: a partial frame held, and a poll that ends FAULTED. -/
theorem witness_XpollPending_any_transport :
    failingReadState.hsState = .awaitingReply ∧ Memory.wf 18 failingReadState.rxb = true ∧ RxPartial failingReadState ∧
    after .auto failingReadState (fun t => (t.hsState, rxStream t)) = some (.faulted, [0x53, 0x02, 0x36, 0xDE]) :=
  ⟨by decide, by decide, .inl (by decide), by decide⟩

end Sys2Proof.Tests
end

section
/-! The transport's read primitive (20_memory.md R65). -/

namespace Sys2Proof.Machine

/-- What TRead answers and what stays waiting are together the queue as it was, whatever the transport chose (R65). -/
theorem tRead_some_append_rxq {n : Nat} {s t : State} {got : List Byte} (h : tRead n s = (some got, t)) :
    got ++ t.rxq = s.rxq ∧ got.length ≤ n := by
  rcases tRead_cases n s with ⟨p, hfault⟩ | ⟨-, k, p, c, hk, hread⟩
  · simp [hfault] at h
  · obtain ⟨rfl, rfl⟩ := Prod.mk.inj (hread.symm.trans h) |>.imp_left Option.some.inj
    exact ⟨List.take_append_drop k s.rxq, Nat.le_trans (List.length_take_le k s.rxq) hk⟩

/-- `fault` removes no byte from the queue (R65). -/
theorem tRead_none_rxq {n : Nat} {s t : State} (h : tRead n s = (none, t)) : t.rxq = s.rxq := by
  rcases tRead_cases n s with ⟨p, hfault⟩ | ⟨-, k, p, c, -, hread⟩
  · obtain ⟨-, rfl⟩ := Prod.mk.inj (hfault.symm.trans h)
    rfl
  · simp [hread] at h

/-- A failed transport answers `fault` and keeps its state (R65, R66). -/
theorem tRead_failed {s : State} (n : Nat) (hf : s.tfault = true) : tRead n s = (none, s) := by
  simp [tRead, hf]

/-- A listed answer of up to k bytes is handed over, cut to the n bytes asked for (R65). -/
theorem tRead_upTo {s : State} {k : Nat} {more : List ReadAnswer} (n : Nat) (hf : s.tfault = false)
    (hp : s.readPolicy = .answers (.upTo k :: more)) :
    tRead n s = handOver n k { s with readPolicy := .answers more } := by
  simp [tRead, hf, hp]

/-- Settles O16, by the two answers TRead can give and by the policies the statement names. -/
theorem tReadTakesTheFrontOfTheQueue : Obligations.TReadTakesTheFrontOfTheQueue := by
  unfold Obligations.TReadTakesTheFrontOfTheQueue
  refine ⟨fun n s t answer h => ⟨?_, ?_, fun hf => ?_, fun hf hp => ?_⟩, fun n k s more hk hf hp => ?_⟩
  · rintro got rfl
    exact tRead_some_append_rxq h
  · rintro rfl
    exact tRead_none_rxq h
  · exact congrArg Prod.fst (h.symm.trans (tRead_failed n hf))
  · exact congrArg Prod.fst (h.symm.trans (tRead_greedy hf hp))
  · simp [tRead_upTo n hf hp, handOver, Nat.min_eq_right hk]

end Sys2Proof.Machine
end

section
/-! The laws of the CRC (40_crc.md R125) and its three commands (R126 to R128). -/

namespace Sys2Proof.Machine

/-- With bit 7 clear the bit step only shifts (R120). -/
theorem crcBit_of_bit7_clear {acc : Byte} (poly : Byte) (h : acc.getLsbD 7 = false) : crcBit acc poly = acc <<< 1 :=
  if_neg (Bool.eq_false_iff.mp h)

@[simp] theorem crcBit_zero (poly : Byte) : crcBit 0 poly = 0 := crcBit_of_bit7_clear poly rfl

/-- A byte absorbed into itself leaves zero, and zero stays zero through the eight bit steps. -/
@[simp] theorem crcByte_self (a poly : Byte) : crcByte a a poly = 0 := by
  have h : a ^^^ a = 0 := BitVec.xor_self
  simp only [crcByte, h, crcBit_zero]

/-- The 1 reaches bit 7 after seven shifts; the eighth bit step shifts it out and brings in the polynomial. -/
theorem crcByte_zero_one (poly : Byte) : crcByte 0 1 poly = poly := by
  have shiftOut : crcBit 0x80 poly = poly := BitVec.zero_xor
  simpa [crcByte, crcBit_of_bit7_clear] using shiftOut

/-- Linearity over exclusive or, in the message and in the initial value together: laws (a) and (b) of R125 are its instances. -/
theorem crc8_zipWith_xor {x y : List Byte} (poly i j : Byte) (h : x.length = y.length) :
    crc8 (List.zipWith (· ^^^ ·) x y) poly (i ^^^ j) = crc8 x poly i ^^^ crc8 y poly j := by
  induction x generalizing y i j with
  | nil =>
    obtain rfl := List.eq_nil_of_length_eq_zero h.symm
    rfl
  | cons a x ih =>
    obtain ⟨b, y, rfl⟩ := List.exists_cons_of_length_eq_add_one h.symm
    rw [List.zipWith_cons_cons, crc8_cons, crcByte_xor]
    exact ih _ _ (Nat.succ.inj h)

/-- A message followed by its own checksum has checksum zero. -/
theorem crc8_append_checksum (m : List Byte) (poly init : Byte) : crc8 (m ++ [crc8 m poly init]) poly init = 0 := by
  rw [crc8_append, crc8_cons, crc8_nil, crcByte_self]

/-- Settles O9: (a) and (b) by linearity in message and initial value, (c) and (e) because zero stays zero, (d) by the eight bit
steps. -/
theorem crc8ArithmeticLaws : Obligations.Crc8ArithmeticLaws := by
  unfold Obligations.Crc8ArithmeticLaws
  refine ⟨fun x y poly h => ?_, fun x e poly init h => ?_, fun x poly => ?_, crcByte_zero_one, crc8_append_checksum⟩
  · simpa using crc8_zipWith_xor poly 0 0 h
  · simpa using crc8_zipWith_xor poly init 0 h
  · rw [crc8_cons, crcByte_self]

/-- What the three commands share: ACC is written and responded, no other field of the state changes. -/
theorem setAcc_eq (v : Byte) (s : State) : setAcc v s = { s with acc := v, responses := s.responses ++ [.acc v] } := rfl

theorem exec_crcinit (s : State) : exec .crcinit s = .next (setAcc s.init s) := rfl

theorem exec_crcbyte (b : Byte) (s : State) : exec (.crcbyte b) s = .next (setAcc (crcByte s.acc b s.poly) s) := rfl

theorem exec_crc8 (data : List Byte) (s : State) : exec (.crc8 data) s = .next (setAcc (crc8 data s.poly s.init) s) := rfl

/-- Settles O10: each of the three commands is one `setAcc`. -/
theorem crcCommandsWriteAccAndRespondIt : Obligations.CrcCommandsWriteAccAndRespondIt := by
  unfold Obligations.CrcCommandsWriteAccAndRespondIt
  intro s b data
  rw [exec_crcinit, exec_crcbyte, exec_crc8, setAcc_eq, setAcc_eq, setAcc_eq]
  exact ⟨rfl, rfl, rfl⟩

end Sys2Proof.Machine
end

section
/-! One changed byte of an encoded frame changes what its checksum must be (41_codec.md R152). -/

namespace Sys2Proof.Machine

/-- The byte step sees accumulator and byte only through their exclusive or (R121). -/
theorem crcByte_comm (a b poly : Byte) : crcByte a b poly = crcByte b a poly := by
  simp only [crcByte, BitVec.xor_comm a b]

/-- For POLY = 0x07 the byte step keeps two bytes apart, as it keeps two accumulators apart. -/
theorem crcByte_poly07_injective {a b b' : Byte} (h : crcByte a b 0x07 = crcByte a b' 0x07) : b = b' := by
  rw [crcByte_comm a b, crcByte_comm a b'] at h
  exact crc8_poly07_injective (d := [a]) h

/-- For POLY = 0x07 a change of one byte of a message, whatever the change, changes its checksum: the accumulators differ after that
byte, and the rest of the message keeps them apart. -/
theorem crc8_poly07_set_ne {d : List Byte} {i : Nat} {b : Byte} (init : Byte) (hi : i < d.length) (hb : b ≠ d.getD i 0) :
    crc8 (d.set i b) 0x07 init ≠ crc8 d 0x07 init := by
  induction d generalizing i init with
  | nil => simp at hi
  | cons a rest ih =>
    cases i with
    | zero => exact fun h => hb (crcByte_poly07_injective (crc8_poly07_injective h))
    | succ j => exact ih (crcByte init a 0x07) (Nat.lt_of_succ_lt_succ hi) hb

/-- Flipping a bit gives another byte. -/
theorem xor_bit_ne (x : Byte) {k : Nat} (hk : k < 8) : x ^^^ BitVec.ofNat 8 (2 ^ k) ≠ x := by
  have hbit : ∀ j : Fin 8, BitVec.ofNat 8 (2 ^ j.val) ≠ 0 := by decide
  intro h
  exact hbit ⟨k, hk⟩ (BitVec.xor_right_inj x |>.mp (h.trans BitVec.xor_zero.symm))

/-- EncodeFn answers a frame only for a payload that fits (R140). -/
theorem length_le_of_encodeFn_ok {poly init : Byte} {flags ulp : Nat} {payload f : List Byte}
    (h : encodeFn poly init flags ulp payload = .ok f) : payload.length ≤ 15 := by
  refine Nat.le_of_not_gt fun hlong => ?_
  rw [encodeFn_error hlong] at h
  cases h

/-- DecodeFn finds a changed byte of a frame that verifies, for POLY = 0x07: a changed checksum byte is no longer the checksum, and
any other changed byte changes what the checksum must be. -/
theorem decodeFn_poly07_set {init control len : Byte} {payload : List Byte} {i : Nat} {b : Byte}
    (hi : i < payload.length + 3)
    (hb : b ≠ (control :: len :: frameCsum 0x07 init control len payload :: payload).getD i 0) :
    ∃ rx comp : Byte,
      decodeFn 0x07 init ((control :: len :: frameCsum 0x07 init control len payload :: payload).set i b) =
        .error (.checksumMismatch rx comp) := by
  have hmsg (j : Nat) (hj : j < payload.length + 2) (hne : b ≠ (control :: len :: payload).getD j 0) :=
    crc8_poly07_set_ne (d := control :: len :: payload) init hj hne
  match i with
  | 0 => exact ⟨_, _, decodeFn_mismatch (hmsg 0 (by omega) hb)⟩
  | 1 => exact ⟨_, _, decodeFn_mismatch (hmsg 1 (by omega) hb)⟩
  | 2 => exact ⟨_, _, decodeFn_mismatch hb.symm⟩
  | j + 3 => exact ⟨_, _, decodeFn_mismatch (hmsg (j + 2) (by omega) hb)⟩

/-- Settles O12: an encoded frame verifies, a flipped bit changes one byte of it, and DecodeFn finds any changed byte. -/
theorem singleBitErrorIsDetected : Obligations.SingleBitErrorIsDetected := by
  unfold Obligations.SingleBitErrorIsDetected
  intro flags ulp payload f i k hf hi hk
  rw [encodeFn_ok (length_le_of_encodeFn_ok hf)] at hf
  cases hf
  exact decodeFn_poly07_set hi (xor_bit_ne _ hk)

end Sys2Proof.Machine
end

section
/-! The Frame Codec's commands and the round trip of packets and frames (41_codec.md R141, R145, R151). -/

namespace Sys2Proof.Machine

/-- The length byte of a payload that fits is its length (R94). -/
theorem lengthByte_eq {n : Nat} (h : n ≤ 15) : lengthByte n = BitVec.ofNat 8 n := by
  have hmask : n &&& 0x0F = n % 16 := Nat.and_two_pow_sub_one_eq_mod n 4
  rw [lengthByte, hmask, Nat.mod_eq_of_lt (by omega)]

/-- The frame that EncodeFn answers is the frame of the rules' arithmetic (R153). -/
theorem encodeFn_eq_packetFrame {payload : List Byte} (h : payload.length ≤ 15) (poly init : Byte) (flags ulp : Nat) :
    encodeFn poly init flags ulp payload = .ok (packetFrame poly init flags ulp payload) := by
  rw [encodeFn_ok h, controlByte_eq, lengthByte_eq h]
  rfl

theorem exec_encode_ok {flags ulp : Byte} {payload f : List Byte} {s : State}
    (h : encodeFn s.poly s.init flags.toNat ulp.toNat payload = .ok f) :
    exec (.encode flags ulp payload) s = .next (respond (.encoded f) s) := by
  simp only [exec, execEncode, h]

theorem exec_encode_error {flags ulp : Byte} {payload : List Byte} {x : Exn} {s : State}
    (h : encodeFn s.poly s.init flags.toNat ulp.toNat payload = .error x) :
    exec (.encode flags ulp payload) s = .next (raise x s) := by
  simp only [exec, execEncode, h]

/-- Settles O13, by the two cases of EncodeFn. -/
theorem encodeRespondsTheFrame : Obligations.EncodeRespondsTheFrame := by
  unfold Obligations.EncodeRespondsTheFrame
  intro s flags ulp payload
  constructor
  · intro hfits
    exact exec_encode_ok (encodeFn_eq_packetFrame hfits ..)
  · intro hlong
    exact exec_encode_error (encodeFn_error hlong ..)

theorem exec_decode_ok {buffer : List Byte} {p : Packet} {s : State} (h : decodeFn s.poly s.init buffer = .ok p) :
    exec (.decode buffer) s = .next (respond (.packet p (namedFlags p.flags)) s) := by
  simp only [exec, execDecode, h]

theorem exec_decode_error {buffer : List Byte} {x : Exn} {s : State} (h : decodeFn s.poly s.init buffer = .error x) :
    exec (.decode buffer) s = .next (raise x s) := by
  simp only [exec, execDecode, h]

/-- A mismatch records the received byte above the computed one (R230). -/
theorem info_checksumMismatch (rx comp : Byte) : Exn.info (.checksumMismatch rx comp) = rx ++ comp := by
  rw [← BitVec.setWidth_eq (rx ++ comp), BitVec.setWidth_append_eq_shiftLeft_setWidth_or]
  rfl

/-- The fields of the control byte as quotient and remainder by 8 (R91). -/
theorem packetOf_eq (control rx : Byte) (payload : List Byte) :
    packetOf control rx payload = ⟨flagsOf control, ulpOf control, payload, rx⟩ := by
  have hflags : flagsOf control = BitVec.ofNat 5 (control.toNat / 8) :=
    congrArg (BitVec.ofNat 5) (Nat.shiftRight_eq_div_pow control.toNat 3)
  have hulp : ulpOf control = BitVec.ofNat 3 (control.toNat % 8) := BitVec.eq_of_toNat_eq (Nat.mod_mod _ 8).symm
  rw [packetOf, hflags, hulp]

/-- The named booleans of the flags field are bits 7 to 3 of the control byte (R92). -/
theorem namedFlags_flagsOf (control : Byte) : namedFlags (flagsOf control) = namedOfControl control := by
  revert control; decide +kernel

/-- Settles O14, by the three cases of DecodeFn. -/
theorem decodeVerifiesAndResponds : Obligations.DecodeVerifiesAndResponds := by
  unfold Obligations.DecodeVerifiesAndResponds
  intro s buffer control len rx payload
  refine ⟨fun hshort => ?_, fun hwrong => ?_, fun hright => ?_⟩
  · exact exec_decode_error (decodeFn_short hshort)
  · rw [← info_checksumMismatch]
    exact exec_decode_error (decodeFn_mismatch hwrong)
  · rw [packetOf_eq, ← namedFlags_flagsOf]
    exact exec_decode_ok (decodeFn_ok hright)

/-- Decode inverts encode: the packet of an encoded frame, with the frame's checksum byte. -/
theorem decodeFn_encodeFn (poly init : Byte) (flags : BitVec 5) (ulp : BitVec 3) {payload : List Byte}
    (h : payload.length ≤ 15) :
    ∃ f : List Byte, encodeFn poly init flags.toNat ulp.toNat payload = .ok f ∧
      decodeFn poly init f = .ok { flags := flags, ulp := ulp, payload := payload, checksum := f.getD 2 0 } := by
  refine ⟨_, encodeFn_ok h .., ?_⟩
  rw [decodeFn_ok rfl, controlByte_fields, flagsOf_append, ulpOf_append]
  rfl

/-- What DecodeFn accepts is a frame that verifies, and the packet is read off it (R144). -/
theorem decodeFn_eq_ok_iff {poly init : Byte} {b : List Byte} {p : Packet} :
    decodeFn poly init b = .ok p ↔
      ∃ len : Byte, frameCsum poly init (p.flags ++ p.ulp) len p.payload = p.checksum ∧
        b = (p.flags ++ p.ulp) :: len :: p.checksum :: p.payload := by
  constructor
  · intro h
    match b with
    | control :: len :: rx :: payload =>
      by_cases hcs : frameCsum poly init control len payload = rx
      · rw [decodeFn_ok hcs] at h
        cases h
        simp only [control_fields]
        exact ⟨len, hcs, rfl⟩
      · rw [decodeFn_mismatch hcs] at h
        cases h
    | [] | [_] | [_, _] => cases h
  · rintro ⟨len, hcs, rfl⟩
    rw [decodeFn_ok hcs, flagsOf_append, ulpOf_append]

/-- Encode inverts decode on a frame whose length byte is the number of its payload bytes. -/
theorem encodeFn_decodeFn {poly init : Byte} {b : List Byte} {p : Packet} (hmax : b.length ≤ 18)
    (hlen : (b.getD 1 0).toNat = b.length - 3) (h : decodeFn poly init b = .ok p) :
    encodeFn poly init p.flags.toNat p.ulp.toNat p.payload = .ok b := by
  obtain ⟨len, hcs, rfl⟩ := decodeFn_eq_ok_iff.mp h
  have hfits : p.payload.length ≤ 15 := Nat.le_of_add_le_add_right (b := 3) hmax
  have hdeclared : len.toNat = p.payload.length := hlen
  have hbyte : lengthByte p.payload.length = len := by
    rw [lengthByte_eq hfits, ← hdeclared, BitVec.ofNat_toNat, BitVec.setWidth_eq]
  rw [encodeFn_ok hfits, controlByte_fields, hbyte, hcs]

/-- Settles O15, by the two directions of R151. -/
theorem codecRoundTrip : Obligations.CodecRoundTrip := by
  unfold Obligations.CodecRoundTrip
  constructor
  · intro poly init flags ulp payload hfits
    exact decodeFn_encodeFn poly init flags ulp hfits
  · intro poly init b p _ hmax hlen h
    exact encodeFn_decodeFn hmax hlen h

end Sys2Proof.Machine
end

section
/-! The shape of a frame the Stream Reader hands over (42_stream_reader.md R179). -/

namespace Sys2Proof.Machine

/-- With a whole header there, DecodeFn only ever finds the checksum wrong (R144, R149). -/
theorem decodeFn_header_ne_bufferTooShort (poly init control len rx : Byte) (payload : List Byte) (n : Nat) :
    decodeFn poly init (control :: len :: rx :: payload) ≠ .error (.bufferTooShort n) := by
  by_cases hcs : frameCsum poly init control len payload = rx
  · rw [decodeFn_ok hcs]
    simp
  · rw [decodeFn_mismatch hcs]
    simp

/-- Settles O17: the frame is a header and a payload of the length that the header's second byte declares, which is at most 15. -/
theorem receivedFrameHasItsDeclaredLength : Obligations.ReceivedFrameHasItsDeclaredLength := by
  unfold Obligations.ReceivedFrameHasItsDeclaredLength
  intro s t f h
  obtain ⟨control, len, rx, payload, rfl, hdeclared⟩ := srTryRead_frame_parts h
  have hlength : (control :: len :: rx :: payload).length = frameLen len := by
    simp only [List.length_cons, frameLen, Config.hdrLen]
    omega
  obtain ⟨hmin, hmax⟩ := frameLen_bounds len
  exact ⟨hlength ▸ hmin, hlength ▸ hmax, hlength, decodeFn_header_ne_bufferTooShort s.poly s.init control len rx payload⟩

end Sys2Proof.Machine
end

section
/-! What the Stream Reader leaves unchanged, field by field, and the clock across a timeout (42_stream_reader.md R171, 43_handshake.md R199). -/

namespace Sys2Proof.Machine

theorem ReadsOnly.elapsed_eq {s t : State} (h : ReadsOnly s t) : elapsed t = elapsed s := by rw [h]; rfl

theorem ReadsOnly.timeOk {s t : State} (h : ReadsOnly s t) (ht : TimeOk s) : TimeOk t := by rw [h]; exact ht

theorem ReadsOnly.hsState_eq {s t : State} (h : ReadsOnly s t) : t.hsState = s.hsState := by rw [h]

theorem ReadsOnly.tSend_eq {s t : State} (h : ReadsOnly s t) : t.tSend = s.tSend := by rw [h]

theorem ReadsOnly.timeout_eq {s t : State} (h : ReadsOnly s t) : t.timeout = s.timeout := by rw [h]

theorem ReadsOnly.timew_eq {s t : State} (h : ReadsOnly s t) : t.timew = s.timew := by rw [h]

theorem ReadsOnly.agenda_eq {s t : State} (h : ReadsOnly s t) : t.agenda = s.agenda := by rw [h]

theorem elapsed_timeOut (s : State) : elapsed (timeOut s) = elapsed s := rfl

end Sys2Proof.Machine
end

section
/-! A silent line in AWAITING_REPLY: what one poll and one round do, and when the timeout is reported (43_handshake.md R199, R207). -/

namespace Sys2Proof.Machine

/-- R207: the exchange waits, the transport works, and no complete frame is held or waiting. -/
structure SilentWait (s : State) : Prop where
  waiting : s.hsState = .awaitingReply
  time : TimeOk s
  healthy : transportHealthy s = true
  rxbWf : Memory.wf 18 s.rxb = true
  noFrame : startsWithFrame (rxStream s) = false

/-- On a silent line SR_TryRead answers Pending, and the line stays silent. -/
theorem SilentWait.reads_pending {s t : State} {r : SrResult} (h : SilentWait s) (hr : srTryRead s = (r, t)) :
    r = .pending ∧ ReadsOnly s t ∧ SilentWait t := by
  have hreads := srTryRead_readsOnly hr
  obtain ⟨hpending, hhealthy, hwf, -, hstream⟩ := srTryRead_no_frame h.healthy h.rxbWf h.noFrame hr
  exact ⟨hpending, hreads, hreads.hsState_eq.trans h.waiting, hreads.timeOk h.time, hhealthy, hwf, hstream ▸ h.noFrame⟩

/-- R199, R211: a poll of a silent line past the deadline times out, in either poll order. -/
theorem SilentWait.pollOnce_late {s : State} (h : SilentWait s) (he : s.timeout < elapsed s) :
    ∃ t, ReadsOnly s t ∧ pollOnce s = timeOut t := by
  cases pollOnce_cases s with
  | deadline _ _ hu => exact ⟨s, rfl, hu⟩
  | late t _ hr _ hu => exact ⟨t, srTryRead_readsOnly hr, hu⟩
  | waits _ hle => omega
  | fault _ hr | reply _ _ _ _ _ hr | corrupt _ _ _ _ _ hr => cases (h.reads_pending hr).1

/-- R194, R211: a poll of a silent line up to the deadline goes on waiting, in either poll order. -/
theorem SilentWait.pollOnce_early {s : State} (h : SilentWait s) (he : elapsed s ≤ s.timeout) :
    ReadsOnly s (pollOnce s) ∧ SilentWait (pollOnce s) := by
  cases pollOnce_cases s with
  | waits hr _ => exact (h.reads_pending hr).2
  | deadline _ hlate | late _ _ _ hlate => omega
  | fault _ hr | reply _ _ _ _ _ hr | corrupt _ _ _ _ _ hr => cases (h.reads_pending hr).1

/-- The state of the poll in a round that lets `d` time units pass and leaves the agenda `rest`. -/
def afterTick (d : Nat) (rest : List Event) (s : State) : State := advanceTime d { s with agenda := rest }

/-- R250: time passes on a silent line, fewer than 2^TIMEW units since the send. -/
theorem SilentWait.keeps_afterTick {s : State} {d : Nat} (h : SilentWait s) (rest : List Event)
    (hw : ∀ w, s.timew = some w → elapsed s + d < 2 ^ w) :
    SilentWait (afterTick d rest s) ∧ elapsed (afterTick d rest s) = elapsed s + d :=
  have hclock := elapsed_advanceTime (s := { s with agenda := rest }) h.time hw
  ⟨⟨h.waiting, hclock.2, h.healthy, h.rxbWf, h.noFrame⟩, hclock.1⟩

/-- From `s` the exchange ends TIMED_OUT after the deadline, at most `p` time units late, and waits in every state before (R207). -/
def ReportsTimeoutWithin (p : Nat) (s : State) : Prop :=
  ∃ (k : Nat) (t : State), Host.Core.run Sys2Proof.core k s = .next t ∧ t.hsState = .timedOut ∧ t.tSend = s.tSend ∧
    s.timeout < elapsed t ∧ elapsed t ≤ s.timeout + p ∧
    ∀ (j : Nat) (u : State), j < k → Host.Core.run Sys2Proof.core j s = .next u → u.hsState = .awaitingReply

/-- The report itself. -/
theorem ReportsTimeoutWithin.of_timedOut {p : Nat} {s : State} (hs : s.hsState = .timedOut) (hlow : s.timeout < elapsed s)
    (hhigh : elapsed s ≤ s.timeout + p) : ReportsTimeoutWithin p s :=
  ⟨0, s, rfl, hs, rfl, hlow, hhigh, nofun⟩

/-- One step of waiting before the report. -/
theorem ReportsTimeoutWithin.of_step {p : Nat} {s s' : State} (h : ReportsTimeoutWithin p s') (hstep : step s = .next s')
    (hs : s.hsState = .awaitingReply) (htSend : s'.tSend = s.tSend) (htimeout : s'.timeout = s.timeout) :
    ReportsTimeoutWithin p s := by
  obtain ⟨k, t, hrun, ht, hsend, hlow, hhigh, hbefore⟩ := h
  rw [htimeout] at hlow hhigh
  refine ⟨k + 1, t, (run_next hstep k).trans hrun, ht, hsend.trans htSend, hlow, hhigh, ?_⟩
  intro j u hj hu
  cases j with
  | zero =>
    injection hu with hu
    exact hu ▸ hs
  | succ j => exact hbefore j u (by omega) ((run_next hstep j).symm.trans hu)

/-- A round of the schedule is TICK and then a poll. -/
theorem ReportsTimeoutWithin.of_round {p d : Nat} {s u : State} {rest : List Event} (h : ReportsTimeoutWithin p u)
    (hs : s.hsState = .awaitingReply) (hagenda : s.agenda = .env (.tick d) :: .auto :: rest)
    (hu : pollOnce (afterTick d rest s) = u) (htSend : u.tSend = s.tSend) (htimeout : u.timeout = s.timeout) :
    ReportsTimeoutWithin p s := by
  have htick : step s = .next (advanceTime d { s with agenda := .auto :: rest }) := step_env hagenda
  have hpoll : step (advanceTime d { s with agenda := .auto :: rest }) = .next u := hu ▸ step_auto_poll rfl hs
  exact (h.of_step hpoll hs htSend htimeout).of_step htick hs rfl rfl

/-- R207, by induction over the rounds: the round that passes the deadline reports, the rounds before it keep the line silent. -/
theorem SilentWait.reportsTimeoutWithin {p : Nat} (ds : List Nat) {s : State} (h : SilentWait s)
    (hw : ∀ w, s.timew = some w → s.timeout + p < 2 ^ w) (he : elapsed s ≤ s.timeout) (hagenda : s.agenda = pollRounds ds)
    (hp : ∀ d ∈ ds, d ≤ p) (hsum : s.timeout < elapsed s + ds.sum) : ReportsTimeoutWithin p s := by
  induction ds generalizing s with
  | nil => exact absurd hsum (Nat.not_lt.mpr he)
  | cons d ds ih =>
    obtain ⟨hd, hds⟩ := List.forall_mem_cons.mp hp
    rw [List.sum_cons] at hsum
    obtain ⟨hwait, helapsed⟩ := h.keeps_afterTick (pollRounds ds) fun w hw' => Nat.lt_of_le_of_lt (Nat.add_le_add he hd) (hw w hw')
    by_cases hlate : s.timeout < elapsed s + d
    · obtain ⟨t, hreads, hpoll⟩ := hwait.pollOnce_late (by rwa [helapsed])
      have helapsed' := hreads.elapsed_eq.trans helapsed
      have htimeout : t.timeout = s.timeout := hreads.timeout_eq
      have hreport : ReportsTimeoutWithin p (timeOut t) := by
        apply ReportsTimeoutWithin.of_timedOut rfl <;> rw [elapsed_timeOut, timeOut_timeout] <;> omega
      exact hreport.of_round h.waiting hagenda hpoll hreads.tSend_eq htimeout
    · obtain ⟨hreads, hwait'⟩ := hwait.pollOnce_early (by rw [helapsed]; exact Nat.le_of_not_lt hlate)
      have helapsed' := hreads.elapsed_eq.trans helapsed
      have htimeout : (pollOnce (afterTick d (pollRounds ds) s)).timeout = s.timeout := hreads.timeout_eq
      have htimew : (pollOnce (afterTick d (pollRounds ds) s)).timew = s.timew := hreads.timew_eq
      have hrest := ih hwait' (by rwa [htimew, htimeout]) (by omega) hreads.agenda_eq hds (by omega)
      exact hrest.of_round h.waiting hagenda rfl hreads.tSend_eq htimeout

/-- Settles O36: the state before the first round is a silent wait. -/
theorem timeoutIsReportedWithinOnePollingInterval : Obligations.TimeoutIsReportedWithinOnePollingInterval := by
  unfold Obligations.TimeoutIsReportedWithinOnePollingInterval
  intro s p ds hs htime hw he hhealthy hwf hno hagenda hp hsum
  exact SilentWait.reportsTimeoutWithin ds ⟨hs, htime, hhealthy, hwf, hno⟩ hw he hagenda hp hsum

end Sys2Proof.Machine
end

section
/-! Sending the frame and abandoning the exchange (43_handshake.md R193, R201). -/

namespace Sys2Proof.Machine

/-- Settles O26: XSEND in SENDING is one `sendFrame`, whose two outcomes the transport decides. -/
theorem xsendWritesTheFrame : Obligations.XsendWritesTheFrame := by
  unfold Obligations.XsendWritesTheFrame
  intro s hs hcount
  rw [exec_xsend hs hcount]
  rcases sendFrame_cases (memRead s.txb 0 s.txCnt.toNat) s with ⟨hworks, hsent⟩ | ⟨hfailed, n, hsent⟩ <;> rw [hsent]
  · exact ⟨fun _ => rfl, fun hfailed => absurd (hworks.symm.trans hfailed) nofun⟩
  · exact ⟨fun hworks => absurd (hworks.symm.trans hfailed) nofun, fun _ => ⟨n, rfl⟩⟩

theorem exec_xabandon (s : State) : exec .xabandon s = .next (respond .unit { s with hsState := .idle }) := rfl

theorem respond_eq (v : Response) (s : State) : respond v s = { s with responses := s.responses ++ [v] } := rfl

/-- Settles O33: XABANDON is one response over the state with HS_STATE at IDLE. -/
theorem xabandonReturnsToIdle : Obligations.XabandonReturnsToIdle := by
  unfold Obligations.XabandonReturnsToIdle
  intro s
  rw [exec_xabandon, respond_eq]

end Sys2Proof.Machine
end

section
/-! A command that would disturb an active exchange is refused (42_stream_reader.md R178, 43_handshake.md R192, 60_exceptions.md R236). -/

namespace Sys2Proof.Machine

/-- R190: the two states in which an exchange is active. -/
theorem HsState.active_iff {h : HsState} : h.active = true ↔ h = .sending ∨ h = .awaitingReply := by
  cases h <;> simp [HsState.active]

theorem exec_rdframe_busy {s : State} (h : s.hsState.active = true) :
    exec .rdframe s = .next (raise (.busy s.hsState) s) :=
  if_pos h

/-- The exchange is tested before the payload's length (R241). -/
theorem exec_xstart_busy {s : State} (h : s.hsState.active = true) (flags ulp : Byte) (payload : List Byte) :
    exec (.xstart flags ulp payload) s = .next (raise (.busy s.hsState) s) :=
  if_pos h

/-- R238: raising writes ERR and ERR_INFO and responds, no other field of the state changes. -/
theorem raise_eq (x : Exn) (s : State) :
    raise x s = { s with err := x.code, errInfo := x.info, responses := s.responses ++ [.fail x] } := rfl

/-- Settles O19: in an active exchange each of the two commands is one `raise` of Busy. -/
theorem busyRefusesRdframeAndXstart : Obligations.BusyRefusesRdframeAndXstart := by
  unfold Obligations.BusyRefusesRdframeAndXstart
  intro s flags ulp payload hs
  have hactive := HsState.active_iff.mpr hs
  rw [exec_rdframe_busy hactive, exec_xstart_busy hactive, raise_eq]
  exact ⟨rfl, rfl⟩

end Sys2Proof.Machine
end

section
/-! The RESET step (70_reset_and_hazards.md R271). -/

namespace Sys2Proof.Machine

theorem step_reset {s : State} {rest : List Event} (h : s.agenda = .env .reset :: rest) :
    step s = .next (resetBlock { s with agenda := rest }) :=
  step_env h

/-- Settles O43: RESET is one `resetBlock` behind the used-up agenda entry; it reads of the state only INIT, which it keeps. -/
theorem resetPutsEveryRegisterToItsResetValue : Obligations.ResetPutsEveryRegisterToItsResetValue := by
  unfold Obligations.ResetPutsEveryRegisterToItsResetValue
  intro s rest hreset
  rw [step_reset hreset, resetBlock]

end Sys2Proof.Machine
end

section
/-! Encoding and decoding agree: the command port, the whole frames of line and peer (30_encoding.md R90, R98, R99, R101, R102). -/

namespace Sys2Proof.Machine

/-! ### The command port -/

/-- The mask keeps the code and drops bits 7 to 4 (log 3). -/
theorem extractLsb'_append_code (high code : BitVec 4) : (high ++ code : BitVec 8).extractLsb' 0 4 = code := by
  revert high code; decide +kernel

theorem decode_cmd_append (high code : BitVec 4) (operands : List Byte) :
    decode .cmd ((high ++ code : BitVec 8) :: operands) = decodeCommand code operands :=
  congrArg (decodeCommand · operands) (extractLsb'_append_code high code)

theorem decodePacket_ok {mk : Byte → Byte → List Byte → Instr} {flags ulp : Byte} {payload : List Byte}
    (h : payload.length ≤ 255) : decodePacket mk (flags :: ulp :: payload) = .ok (mk flags ulp payload) :=
  if_pos h

theorem decodePacket_over {mk : Byte → Byte → List Byte → Instr} {flags ulp : Byte} {payload : List Byte}
    (h : payload.length > 255) : decodePacket mk (flags :: ulp :: payload) = .error .payloadOverPort :=
  if_neg (Nat.not_le.mpr h)

theorem decodeBuffer_ok {buffer : List Byte} (h : buffer.length ≤ 18) : decodeBuffer buffer = .ok (.decode buffer) :=
  if_pos h

theorem decodeBuffer_over {buffer : List Byte} (h : buffer.length > 18) : decodeBuffer buffer = .error .bufferOverPort :=
  if_neg (Nat.not_le.mpr h)

/-- What the command decoder may answer: an instruction of the command port with its operands in their ranges. -/
def OfCommandPort (i : Instr) : Prop := i.wf = true ∧ (encode i).1 = .cmd

theorem ofCommandPort_of_decodeNone {i j : Instr} {operands : List Byte} (hi : OfCommandPort i)
    (h : decodeNone i operands = .ok j) : OfCommandPort j := by
  cases operands with
  | nil => cases h; exact hi
  | cons _ _ => cases h

theorem ofCommandPort_of_decodeByte {i : Instr} {operands : List Byte} (h : decodeByte operands = .ok i) : OfCommandPort i := by
  match operands with
  | [_] => cases h; exact ⟨rfl, rfl⟩
  | [] | _ :: _ :: _ => cases h

theorem ofCommandPort_of_decodePacket {mk : Byte → Byte → List Byte → Instr} {i : Instr} {operands : List Byte}
    (hmk : ∀ flags ulp payload, payload.length ≤ 255 → OfCommandPort (mk flags ulp payload))
    (h : decodePacket mk operands = .ok i) : OfCommandPort i := by
  match operands with
  | flags :: ulp :: payload =>
    by_cases hle : payload.length ≤ 255
    · rw [decodePacket_ok hle] at h
      cases h
      exact hmk flags ulp payload hle
    · rw [decodePacket_over (Nat.not_le.mp hle)] at h
      cases h
  | [] | [_] => cases h

theorem ofCommandPort_of_decodeBuffer {i : Instr} {buffer : List Byte} (h : decodeBuffer buffer = .ok i) : OfCommandPort i := by
  by_cases hle : buffer.length ≤ 18
  · rw [decodeBuffer_ok hle] at h
    cases h
    exact ⟨decide_eq_true hle, rfl⟩
  · rw [decodeBuffer_over (Nat.not_le.mp hle)] at h
    cases h

/-- The rows of the command table (R101, R102). The cases are the alternatives of `decodeCommand` in their order: `h_n` is code n - 1,
and those not named are CRC8 and the reserved codes, which take any operands. -/
theorem ofCommandPort_of_decodeCommand {code : BitVec 4} {operands : List Byte} {i : Instr}
    (h : decodeCommand code operands = .ok i) : OfCommandPort i := by
  unfold decodeCommand at h
  split at h
  case h_2 | h_7 | h_10 => exact ofCommandPort_of_decodeNone ⟨rfl, rfl⟩ h
  case h_3 => exact ofCommandPort_of_decodeByte h
  case h_5 => exact ofCommandPort_of_decodePacket (mk := .encode) (fun _ _ _ hle => ⟨decide_eq_true hle, rfl⟩) h
  case h_9 => exact ofCommandPort_of_decodePacket (mk := .xstart) (fun _ _ _ hle => ⟨decide_eq_true hle, rfl⟩) h
  case h_6 => exact ofCommandPort_of_decodeBuffer h
  all_goals cases h; exact ⟨rfl, rfl⟩

/-- Settles O3: the decoder of every command row answers in range. -/
theorem decodedCommandIsWellFormed : Obligations.DecodedCommandIsWellFormed := by
  unfold Obligations.DecodedCommandIsWellFormed
  intro bytes i h
  cases bytes with
  | nil => cases h
  | cons code operands => exact ofCommandPort_of_decodeCommand h

/-- Settles O5: a reserved code's row takes no operand, and the mask drops the high bits. -/
theorem reservedCodesIgnoreTheirOperands : Obligations.ReservedCodesIgnoreTheirOperands := by
  unfold Obligations.ReservedCodesIgnoreTheirOperands
  intro high operands
  simp only [decode_cmd_append]
  exact ⟨rfl, rfl, rfl, rfl, rfl, rfl, rfl, rfl⟩

/-! ### Whole frames -/

/-- What splitFrame accepts: three header bytes and the declared payload (R98). -/
theorem splitFrame_eq_ok_iff {bytes payload : List Byte} {control len csum : Byte} :
    splitFrame bytes = .ok (control, len, csum, payload) ↔
      bytes = control :: len :: csum :: payload ∧ payload.length = declaredLen len := by
  constructor
  · intro h
    match bytes with
    | c :: l :: x :: p =>
      rw [splitFrame] at h
      split at h
      · rename_i hlen; cases h; exact ⟨rfl, hlen⟩
      · cases h
    | [] | [_] | [_, _] => cases h
  · rintro ⟨rfl, hlen⟩
    exact if_pos hlen

/-- The length nibble of a payload that fits is its length (R94). -/
theorem toNat_ofNat4_length {payload : List Byte} (h : payload.length ≤ 15) :
    (BitVec.ofNat 4 payload.length).toNat = payload.length := by
  rw [BitVec.toNat_ofNat]
  exact Nat.mod_eq_of_lt (by omega)

theorem splitFrame_frameBytes {payload : List Byte} (flags : BitVec 5) (ulp : BitVec 3) (rsv : BitVec 4) (csum : Byte)
    (h : payload.length ≤ 15) :
    splitFrame (frameBytes flags ulp rsv csum payload) =
      .ok (flags ++ ulp, rsv ++ BitVec.ofNat 4 payload.length, csum, payload) :=
  splitFrame_eq_ok_iff.mpr ⟨rfl, by rw [declaredLen_append, toNat_ofNat4_length h]⟩

/-- The header fields of a whole frame give its bytes back (R90). -/
theorem frameBytes_fields {control len csum : Byte} {payload : List Byte} (h : payload.length = declaredLen len) :
    frameBytes (flagsOf control) (ulpOf control) (reservedOf len) csum payload = control :: len :: csum :: payload := by
  rw [frameBytes, control_fields, h, length_fields]

/-- R92: every flags value is its five bits. -/
theorem exists_flagsOfBits (flags : BitVec 5) : ∃ s a g n t : Bool, flags = flagsOfBits s a g n t :=
  ⟨flags.getLsbD 4, flags.getLsbD 3, flags.getLsbD 2, flags.getLsbD 1, flags.getLsbD 0, by revert flags; decide⟩

theorem getLsbD_flagsOfBits (s a g n t : Bool) :
    (flagsOfBits s a g n t).getLsbD 4 = s ∧ (flagsOfBits s a g n t).getLsbD 3 = a ∧ (flagsOfBits s a g n t).getLsbD 2 = g ∧
      (flagsOfBits s a g n t).getLsbD 1 = n ∧ (flagsOfBits s a g n t).getLsbD 0 = t := by
  revert s a g n t; decide

/-- R99, class corrupt. -/
theorem decode_line_corrupt {flags : BitVec 5} {ulp : BitVec 3} {rsv : BitVec 4} {csum : Byte} {payload : List Byte}
    (h : payload.length ≤ 15) (hv : frameVerifies flags ulp rsv csum payload = false) :
    decode .line (frameBytes flags ulp rsv csum payload) = .ok (.frame flags ulp rsv csum payload) := by
  simp only [decode, splitFrame_frameBytes _ _ _ _ h, classifyFrame, flagsOf_append, ulpOf_append, reservedOf_append, hv,
    Bool.not_false, if_true]

/-- R99, the two classes of a frame that verifies, by its ACK bit. -/
theorem decode_line_reply {s a g n t : Bool} {ulp : BitVec 3} {rsv : BitVec 4} {csum : Byte} {payload : List Byte}
    (h : payload.length ≤ 15) (hv : frameVerifies (flagsOfBits s a g n t) ulp rsv csum payload = true) :
    decode .line (frameBytes (flagsOfBits s a g n t) ulp rsv csum payload) =
      .ok (if a then .frameAck s g n t ulp rsv csum payload else .frameNack s g n t ulp rsv csum payload) := by
  obtain ⟨hs, ha, hg, hn, ht⟩ := getLsbD_flagsOfBits s a g n t
  simp only [decode, splitFrame_frameBytes _ _ _ _ h, classifyFrame, flagsOf_append, ulpOf_append, reservedOf_append, hv,
    Bool.not_true, Bool.false_eq_true, if_false, hs, ha, hg, hn, ht]

/-- A frame from the peer is taken when an encoder can have made it (R140). -/
theorem decode_peer_frameBytes {payload : List Byte} (flags : BitVec 5) (ulp : BitVec 3) (rsv : BitVec 4) (csum : Byte)
    (h : payload.length ≤ 15) :
    decode .peer (frameBytes flags ulp rsv csum payload) =
      if rsv = 0 ∧ frameVerifies flags ulp 0 csum payload = true then .ok (.frameEncoded flags ulp csum payload)
      else .error .notEncoded := by
  simp only [decode, splitFrame_frameBytes _ _ _ _ h, encodedFrame, flagsOf_append, ulpOf_append, reservedOf_append]

/-- Settles O1: commands by their rows, frames by the class that well-formedness gives them. -/
theorem decodeOfEncodeIsTheInstruction : Obligations.DecodeOfEncodeIsTheInstruction := by
  unfold Obligations.DecodeOfEncodeIsTheInstruction
  intro i hwf
  cases i with
  | encode flags ulp payload => exact decodePacket_ok (of_decide_eq_true hwf)
  | xstart flags ulp payload => exact decodePacket_ok (of_decide_eq_true hwf)
  | decode buffer => exact decodeBuffer_ok (of_decide_eq_true hwf)
  | frame flags ulp rsv csum payload =>
    obtain ⟨hlen, hcorrupt⟩ := Bool.and_eq_true_iff.mp hwf
    exact decode_line_corrupt (of_decide_eq_true hlen) ((Bool.not_eq_true' _).mp hcorrupt)
  | frameEncoded flags ulp csum payload =>
    obtain ⟨hlen, hverify⟩ := Bool.and_eq_true_iff.mp hwf
    exact (decode_peer_frameBytes _ _ _ _ (of_decide_eq_true hlen)).trans (if_pos ⟨rfl, hverify⟩)
  | frameAck | frameNack =>
    obtain ⟨hlen, hverify⟩ := Bool.and_eq_true_iff.mp hwf
    exact decode_line_reply (of_decide_eq_true hlen) hverify
  | _ => rfl

/-- A decoded frame comes from the bytes that its fields make up. -/
theorem frameBytes_of_decode {port : Port} {bytes : List Byte} {i : Instr} (hport : port = .line ∨ port = .peer)
    (h : decode port bytes = .ok i) :
    ∃ (flags : BitVec 5) (ulp : BitVec 3) (rsv : BitVec 4) (csum : Byte) (payload : List Byte),
      payload.length ≤ 15 ∧ bytes = frameBytes flags ulp rsv csum payload := by
  cases hsplit : splitFrame bytes with
  | error e => rcases hport with rfl | rfl <;> simp [decode, hsplit] at h
  | ok parts =>
    obtain ⟨control, len, csum, payload⟩ := parts
    obtain ⟨rfl, hlen⟩ := splitFrame_eq_ok_iff.mp hsplit
    exact ⟨flagsOf control, ulpOf control, reservedOf len, csum, payload, hlen ▸ declaredLen_le len,
      (frameBytes_fields hlen).symm⟩

/-- Settles O2: on the line by the classes of R99, from a peer by the one row. -/
theorem frameDecodingReadsEveryByte : Obligations.FrameDecodingReadsEveryByte := by
  unfold Obligations.FrameDecodingReadsEveryByte
  intro port bytes i hport h
  obtain ⟨flags, ulp, rsv, csum, payload, hlen, rfl⟩ := frameBytes_of_decode hport h
  have hfits : decide (payload.length ≤ 15) = true := decide_eq_true hlen
  rcases hport with rfl | rfl
  · cases hverify : frameVerifies flags ulp rsv csum payload with
    | false =>
      rw [decode_line_corrupt hlen hverify] at h
      cases h
      exact ⟨rfl, Bool.and_eq_true_iff.mpr ⟨hfits, (Bool.not_eq_true' _).mpr hverify⟩⟩
    | true =>
      obtain ⟨s, a, g, n, t, rfl⟩ := exists_flagsOfBits flags
      rw [decode_line_reply hlen hverify] at h
      cases a <;> cases h <;> exact ⟨rfl, Bool.and_eq_true_iff.mpr ⟨hfits, hverify⟩⟩
  · rw [decode_peer_frameBytes _ _ _ _ hlen] at h
    split at h
    · rename_i hencoded
      obtain ⟨rfl, hverify⟩ := hencoded
      cases h
      exact ⟨rfl, Bool.and_eq_true_iff.mpr ⟨hfits, hverify⟩⟩
    · cases h

/-- Settles O4: each of the twelve words is decoded by evaluation. -/
theorem tableWordsDecodeToTheirRows : Obligations.TableWordsDecodeToTheirRows := by
  unfold Obligations.TableWordsDecodeToTheirRows
  decide +kernel

end Sys2Proof.Machine
end

section
/-! The step taken apart by the agenda's head, and the steps that are one known operation (10_state.md R26, 60_exceptions.md R237,
R242). -/

namespace Sys2Proof.Machine

/-! ### Which step is taken -/

theorem nextItem_cons {s : State} {e : Event} {rest : List Event} (h : s.agenda = e :: rest) :
    nextItem s = (itemOfEvent e s, { s with agenda := rest }) := by
  simp only [nextItem, h]

theorem nextItem_nil {s : State} (h : s.agenda = []) : nextItem s = (autoItem s, s) := by
  simp only [nextItem, h]

theorem itemOfBytes_ok {port : Port} {bytes : List Byte} {i : Instr} (h : decode port bytes = .ok i) :
    itemOfBytes port bytes = .instr i := by
  simp only [itemOfBytes, h]

theorem itemOfBytes_error {port : Port} {bytes : List Byte} {e : DecodeError} (h : decode port bytes = .error e) :
    itemOfBytes port bytes = .rejected e := by
  simp only [itemOfBytes, h]

theorem step_of_instr {s s1 : State} {i : Instr} (h : nextItem s = (.instr i, s1)) : step s = exec i s1 := by
  simp only [step, h]

/-- An agenda entry that brings bytes in by a port is a step of the instruction they decode to. -/
theorem step_of_bytes {s : State} {e : Event} {port : Port} {bytes : List Byte} {rest : List Event} {i : Instr}
    (h : s.agenda = e :: rest) (he : itemOfEvent e s = itemOfBytes port bytes) (hd : decode port bytes = .ok i) :
    step s = exec i { s with agenda := rest } :=
  step_of_instr (by rw [nextItem_cons h, he, itemOfBytes_ok hd])

theorem step_cmd {s : State} {bytes : List Byte} {rest : List Event} {i : Instr} (h : s.agenda = .cmd bytes :: rest)
    (hd : decode .cmd bytes = .ok i) : step s = exec i { s with agenda := rest } :=
  step_of_bytes h rfl hd

/-- Settles O6, by the port. -/
theorem stepRunsTheDecodedInstruction : Obligations.StepRunsTheDecodedInstruction := by
  unfold Obligations.StepRunsTheDecodedInstruction
  intro s bytes rest i
  exact ⟨fun h => step_of_bytes h rfl, fun h => step_of_bytes h rfl, fun h => step_of_bytes h rfl⟩

/-- R103, R104: the code of HS_STATE decodes to its autonomous step. -/
theorem autoItem_eq (s : State) :
    autoItem s = if s.hsState = .sending then .instr .xsend
      else if s.hsState = .awaitingReply then .instr .xpoll else .quiet := by
  unfold autoItem
  cases s.hsState <;> rfl

/-- The controller's turn, in the state left after the agenda gave it. -/
theorem step_of_autoItem {s s1 : State} (h : nextItem s = (autoItem s, s1)) :
    step s = if s.hsState = .sending then exec .xsend s1
      else if s.hsState = .awaitingReply then exec .xpoll s1 else .next s1 := by
  rw [autoItem_eq] at h
  by_cases hsend : s.hsState = .sending
  · rw [if_pos hsend] at h ⊢
    exact step_of_instr h
  · rw [if_neg hsend] at h ⊢
    by_cases hwait : s.hsState = .awaitingReply
    · rw [if_pos hwait] at h ⊢
      exact step_of_instr h
    · rw [if_neg hwait] at h ⊢
      simp only [step, h]

/-- Settles O7: an entry `auto` and an empty agenda both give the controller its turn. -/
theorem hsStateSelectsTheAutonomousStep : Obligations.HsStateSelectsTheAutonomousStep := by
  unfold Obligations.HsStateSelectsTheAutonomousStep
  intro s rest
  exact ⟨fun h => step_of_autoItem (nextItem_cons h), fun h => step_of_autoItem (nextItem_nil h)⟩

theorem step_cmd_refused {s : State} {bytes : List Byte} {rest : List Event} {e : DecodeError}
    (h : s.agenda = .cmd bytes :: rest) (hd : decode .cmd bytes = .error e) : step s = .refused (.notCarried e) := by
  simp only [step, nextItem_cons h, itemOfEvent, itemOfBytes_error hd]

/-- Settles O8: the operand decoders reject what is over the port's bounds. -/
theorem uncarriedTransactionIsRefused : Obligations.UncarriedTransactionIsRefused := by
  unfold Obligations.UncarriedTransactionIsRefused
  intro s flags ulp payload buffer rest
  refine ⟨fun hlong h => ?_, fun hlong h => ?_, fun hlong h => ?_⟩
  · exact step_cmd_refused h (decodePacket_over hlong)
  · exact step_cmd_refused h (decodePacket_over hlong)
  · exact step_cmd_refused h (decodeBuffer_over hlong)

/-! ### The CRC, a byte at a time -/

theorem step_crcinit {s : State} {rest : List Event} (h : s.agenda = .cmd [0x01] :: rest) :
    step s = .next (setAcc s.init { s with agenda := rest }) :=
  step_cmd (i := .crcinit) h rfl

theorem step_crcbyte {s : State} {b : Byte} {rest : List Event} (h : s.agenda = .cmd [0x02, b] :: rest) :
    step s = .next (setAcc (crcByte s.acc b s.poly) { s with agenda := rest }) :=
  step_cmd (i := .crcbyte b) h rfl

/-- CRCBYTE for each byte of d carries the accumulator through d. -/
theorem run_crcbytes (d : List Byte) {s : State} {rest : List Event}
    (h : s.agenda = (d.map fun b => .cmd [0x02, b]) ++ rest) :
    ∃ t : State, Host.Core.run Sys2Proof.core d.length s = .next t ∧ t.agenda = rest ∧ t.acc = crc8 d s.poly s.acc := by
  induction d generalizing s with
  | nil => exact ⟨s, rfl, h, rfl⟩
  | cons b d ih =>
    obtain ⟨t, hrun, hagenda, hacc⟩ :=
      ih (s := setAcc (crcByte s.acc b s.poly) { s with agenda := (d.map fun b => .cmd [0x02, b]) ++ rest }) rfl
    exact ⟨t, (run_next (step_crcbyte h) d.length).trans hrun, hagenda, hacc⟩

/-- Settles O11: CRCINIT puts INIT into ACC, from where the bytes are absorbed one by one. -/
theorem piecewiseCrcEqualsWholeCrc : Obligations.PiecewiseCrcEqualsWholeCrc := by
  unfold Obligations.PiecewiseCrcEqualsWholeCrc
  intro s d rest h
  obtain ⟨t, hrun, hagenda, hacc⟩ :=
    run_crcbytes d (s := setAcc s.init { s with agenda := (d.map fun b => .cmd [0x02, b]) ++ rest }) rfl
  exact ⟨t, _, (run_next (step_crcinit h) d.length).trans hrun, hagenda, exec_crc8 d s, hacc⟩

/-! ### Reserved codes -/

/-- R102: the reserved codes and their rows. -/
def reservedRows : List (Instr × BitVec 4) :=
  [(.illegal0, 0x0), (.illegal7, 0x7), (.illegalA, 0xA), (.illegalB, 0xB), (.illegalC, 0xC), (.illegalD, 0xD),
    (.illegalE, 0xE), (.illegalF, 0xF)]

/-- R237: a reserved code decodes to its row, which raises IllegalCommand with the code. -/
theorem reservedRow_decode_exec {i : Instr} {code : BitVec 4} (h : (i, code) ∈ reservedRows) (operands : List Byte) (s : State) :
    decodeCommand code operands = .ok i ∧ exec i s = .next (raise (.illegalCommand code) s) := by
  simp only [reservedRows, List.mem_cons, List.not_mem_nil, or_false, Prod.mk.injEq] at h
  rcases h with ⟨rfl, rfl⟩ | ⟨rfl, rfl⟩ | ⟨rfl, rfl⟩ | ⟨rfl, rfl⟩ | ⟨rfl, rfl⟩ | ⟨rfl, rfl⟩ | ⟨rfl, rfl⟩ | ⟨rfl, rfl⟩ <;>
    exact ⟨rfl, rfl⟩

/-- Settles O38: the step decodes the code byte to the reserved row, and the row is one `raise`. -/
theorem reservedCodesRaiseIllegalCommand : Obligations.ReservedCodesRaiseIllegalCommand := by
  unfold Obligations.ReservedCodesRaiseIllegalCommand
  intro s i code high operands rest hrow
  obtain ⟨hdecode, hexec⟩ := reservedRow_decode_exec hrow operands s
  refine ⟨hexec, fun h => ?_⟩
  rw [step_cmd h ((decode_cmd_append high code operands).trans hdecode)]
  exact (reservedRow_decode_exec hrow operands _).2

/-! ### The environment and reset -/

/-- Settles O42: each of the four events is one `applyEnv` behind the used-up agenda entry. -/
theorem environmentStepsChangeNoRegister : Obligations.EnvironmentStepsChangeNoRegister := by
  unfold Obligations.EnvironmentStepsChangeNoRegister
  intro s rest b d
  refine ⟨step_env, step_env, step_env, fun h hw => ?_, fun w h hw => ?_⟩
  · rw [step_env h, applyEnv, advanceTime, hw]
    rfl
  · rw [step_env h, applyEnv, advanceTime, hw]
    rfl

/-- Settles O44: the fields of `State.reset`, whose empty buffers read 0x00 everywhere. -/
theorem resetStateHasTheSpecsValues : Obligations.ResetStateHasTheSpecsValues := by
  unfold Obligations.ResetStateHasTheSpecsValues
  have hbuffers : ∀ a, Memory.read State.reset.txb a = 0x00 ∧ Memory.read State.reset.rxb a = 0x00 ∧
      Memory.read State.reset.rpPay a = 0x00 := fun a => ⟨Memory.read_nil a, Memory.read_nil a, Memory.read_nil a⟩
  exact ⟨rfl, rfl, rfl, rfl, hbuffers, rfl, rfl, rfl, rfl, rfl, rfl, rfl, rfl, rfl, rfl, rfl, rfl, rfl, rfl, rfl, rfl⟩

/-! ### Frames arrive -/

/-- R67: an instruction of the line or of a peer is the arrival of its bytes. -/
theorem exec_arrives {i : Instr} (s : State) (h : (encode i).1 = .line ∨ (encode i).1 = .peer) :
    exec i s = .next (arriveBytes (encode i).2 s) := by
  cases i with
  | frame | frameEncoded | frameAck | frameNack => rfl
  | _ => simp [encode] at h

/-- Settles O48: the four frame rows come in by line or peer. -/
theorem deliveredFrameJoinsTheQueue : Obligations.DeliveredFrameJoinsTheQueue := by
  unfold Obligations.DeliveredFrameJoinsTheQueue
  intro s flags ulp rsv csum payload st g n t
  exact ⟨exec_arrives s (.inl rfl), exec_arrives s (.inr rfl), exec_arrives s (.inl rfl), exec_arrives s (.inl rfl)⟩

end Sys2Proof.Machine
end

section
/-! The Stream Reader and RDFRAME: the gate, the stream of held and waiting bytes, and what a response says (42_stream_reader.md R171
to R182). -/

namespace Sys2Proof.Machine

/-! ### SR_TryRead -/

/-- R172: with fewer than three bytes held and waiting nothing is read. -/
theorem srTryRead_gateClosed {s : State} (hf : s.tfault = false) (h : s.rxCnt.toNat + s.rxq.length < 3) :
    srTryRead s = (.pending, s) := by
  have havail : tAvail s = some s.rxq.length := by simp [tAvail, hf]
  unfold srTryRead
  simp only [Config.hdrLen, havail]
  rw [if_pos (Nat.lt_of_le_of_lt (Nat.le_add_right _ _) h), if_pos h]

/-- SR_TryRead keeps RXB canonical and writes it only behind the held bytes, as many bytes as left RXQ. -/
theorem srTryRead_rxb {s t : State} {r : SrResult} (hw : Memory.wf 18 s.rxb = true) (h : srTryRead s = (r, t)) :
    Memory.wf 18 t.rxb = true ∧
      ∀ a : Nat, a < s.rxCnt.toNat ∨ s.rxCnt.toNat + (s.rxq.length - t.rxq.length) ≤ a →
        Memory.read t.rxb a = Memory.read s.rxb a := by
  obtain ⟨got, u, hu, hends⟩ := srTryRead_cases s hw
  rw [h] at hends
  have hmoved : s.rxq.length - u.rxq.length = got.length := by
    rw [← hu.queue, List.length_append, Nat.add_sub_cancel]
  have hother : ∀ a : Nat, a < s.rxCnt.toNat ∨ s.rxCnt.toNat + (s.rxq.length - u.rxq.length) ≤ a →
      Memory.read u.rxb a = Memory.read s.rxb a := hmoved ▸ hu.other
  cases hends with
  | fault | pending | frame => exact ⟨hu.wf, hother⟩

/-- R180 for a read without a frame. -/
theorem srTryRead_keeps_stream {s t : State} {r : SrResult} (hw : Memory.wf 18 s.rxb = true) (hp : RxPartial s)
    (h : srTryRead s = (r, t)) (hr : r = .fault ∨ r = .pending) : rxStream t = rxStream s :=
  (srTryRead_stream hw hp h).2.2 hr

/-- R180 for a frame handed over. -/
theorem srTryRead_frame_stream {s t : State} {f : List Byte} (hw : Memory.wf 18 s.rxb = true) (hp : RxPartial s)
    (h : srTryRead s = (.frame f, t)) : f ++ rxStream t = rxStream s ∧ t.rxCnt = 0 := by
  obtain ⟨f', hf, hcnt, hstream⟩ := (srTryRead_stream hw hp h).2.1 nofun nofun
  cases hf
  exact ⟨hstream, hcnt⟩

/-- Settles O18, by what SR_TryRead answered. -/
theorem streamReaderLosesNoByte : Obligations.StreamReaderLosesNoByte := by
  unfold Obligations.StreamReaderLosesNoByte
  intro s t r hw hp h
  refine ⟨?_, (srTryRead_stream hw hp h).1, (srTryRead_rxb hw h).1⟩
  cases r with
  | frame f => exact (srTryRead_frame_stream hw hp h).1.symm
  | pending => exact (srTryRead_keeps_stream hw hp h (.inr rfl)).symm
  | fault => exact (srTryRead_keeps_stream hw hp h (.inl rfl)).symm

theorem tfault_of_transportHealthy {s : State} (h : transportHealthy s = true) : s.tfault = false := by
  simp only [transportHealthy, Bool.and_eq_true, Bool.not_eq_true'] at h
  exact h.1

/-- R176: a working transport and no complete frame; SR_TryRead answers Pending, whichever of the three causes it is, and neither the
stream nor any register but RXB and RX_CNT changes. -/
theorem srTryRead_incomplete {s : State} (hh : transportHealthy s = true) (hw : Memory.wf 18 s.rxb = true)
    (hno : startsWithFrame (rxStream s) = false) :
    ∃ t : State, srTryRead s = (.pending, t) ∧ rxStream t = rxStream s ∧ RxPartial t ∧
      t = { s with rxb := t.rxb, rxCnt := t.rxCnt, rxq := t.rxq, readPolicy := t.readPolicy, choices := t.choices } := by
  rcases hsr : srTryRead s with ⟨r, t⟩
  obtain ⟨rfl, hht, -, hp, hstream⟩ := srTryRead_no_frame hh hw hno hsr
  have hreads : ReadsOnly s t := srTryRead_readsOnly hsr
  have hfault : t.tfault = s.tfault := (tfault_of_transportHealthy hht).trans (tfault_of_transportHealthy hh).symm
  unfold ReadsOnly at hreads
  rw [hfault] at hreads
  exact ⟨t, rfl, hstream, hp, hreads⟩

/-- R98: a stream begins with a complete frame when the header is there and the length byte's frame fits. -/
theorem startsWithFrame_iff {l : List Byte} :
    startsWithFrame l = true ↔ 3 ≤ l.length ∧ frameLen (l.getD 1 0) ≤ l.length := by
  match l with
  | _ :: len :: _ :: rest => simp [startsWithFrame]
  | [] | [_] | [_, _] => simp [startsWithFrame]

theorem ReadsOnly.exists_eq {s t : State} (h : ReadsOnly s t) :
    ∃ m c q p f n, t = { s with rxb := m, rxCnt := c, rxq := q, readPolicy := p, tfault := f, choices := n } :=
  ⟨_, _, _, _, _, _, h⟩

/-- Everything SR_TryRead writes, field by field: RXB only behind the held bytes, and the transport's read side. -/
theorem srTryRead_writes {s t : State} {r : SrResult} (hw : Memory.wf 18 s.rxb = true) (h : srTryRead s = (r, t)) :
    ∃ m c q p g n, t = { s with rxb := m, rxCnt := c, rxq := q, readPolicy := p, tfault := g, choices := n } ∧
      ∀ a : Nat, a < s.rxCnt.toNat ∨ s.rxCnt.toNat + (s.rxq.length - q.length) ≤ a → Memory.read m a = Memory.read s.rxb a :=
  ⟨_, _, _, _, _, _, srTryRead_readsOnly h, (srTryRead_rxb hw h).2⟩

/-! ### RDFRAME -/

theorem exec_rdframe_fault {s t : State} (ha : s.hsState.active = false) (hr : srTryRead s = (.fault, t)) :
    exec .rdframe s = .next (raise .transportFault t) := by
  simp [exec, execRdframe, ha, hr]

theorem exec_rdframe_pending {s t : State} (ha : s.hsState.active = false) (hr : srTryRead s = (.pending, t)) :
    exec .rdframe s = .next (respond .pending t) := by
  simp [exec, execRdframe, ha, hr]

theorem exec_rdframe_frame {s t : State} {f : List Byte} (ha : s.hsState.active = false) (hr : srTryRead s = (.frame f, t)) :
    exec .rdframe s = .next (respond (.received f) t) := by
  simp [exec, execRdframe, ha, hr]

/-- Settles O20: the gate is closed, so SR_TryRead answers Pending in the state it found. -/
theorem rdframeGateClosedRespondsPending : Obligations.RdframeGateClosedRespondsPending := by
  unfold Obligations.RdframeGateClosedRespondsPending
  intro s ha hf hgate
  exact exec_rdframe_pending ha (srTryRead_gateClosed hf hgate)

/-- Settles O21: on a failed transport SR_TryRead answers `fault` in the state it found. -/
theorem rdframeRaisesTransportFault : Obligations.RdframeRaisesTransportFault := by
  unfold Obligations.RdframeRaisesTransportFault
  intro s ha hf hp
  exact exec_rdframe_fault ha (srTryRead_tfault hf hp)

/-- Settles O22: the reference transport lets SR_TryRead hand over the frame at once. -/
theorem rdframeHandsOverTheFirstFrame : Obligations.RdframeHandsOverTheFirstFrame := by
  unfold Obligations.RdframeHandsOverTheFirstFrame
  intro s ha hf hgreedy hw hp hstarts
  obtain ⟨hheader, hwhole⟩ := startsWithFrame_iff.mp hstarts
  obtain ⟨m, hread⟩ := srTryRead_greedy hf hgreedy hw hp hheader hwhole
  exact ⟨_, exec_rdframe_frame ha hread, rfl⟩

/-- Settles O23: Busy, or one of the three answers of SR_TryRead. -/
theorem rdframeFrame : Obligations.RdframeFrame := by
  unfold Obligations.RdframeFrame
  intro s hw
  cases ha : s.hsState.active with
  | true =>
    refine ⟨_, exec_rdframe_busy ha, rfl, fun _ _ => rfl, _, rfl, fun hv => absurd rfl (hv _), ?_⟩
    rintro x ⟨⟩
    exact ⟨rfl, rfl, .inr rfl⟩
  | false =>
    rcases hr : srTryRead s with ⟨r, t⟩
    obtain ⟨m, c, q, p, g, n, rfl, hother⟩ := srTryRead_writes hw hr
    cases r with
    | fault =>
      refine ⟨_, exec_rdframe_fault ha hr, rfl, hother, _, rfl, fun hv => absurd rfl (hv _), ?_⟩
      rintro x ⟨⟩
      exact ⟨rfl, rfl, .inl rfl⟩
    | pending => exact ⟨_, exec_rdframe_pending ha hr, rfl, hother, _, rfl, fun _ => ⟨rfl, rfl⟩, nofun⟩
    | frame f => exact ⟨_, exec_rdframe_frame ha hr, rfl, hother, _, rfl, fun _ => ⟨rfl, rfl⟩, nofun⟩

/-- Settles O50: first the silent line, then each answer of SR_TryRead over any transport. -/
theorem rdframeResponseTellsWhatLeftTheStream : Obligations.RdframeResponseTellsWhatLeftTheStream := by
  unfold Obligations.RdframeResponseTellsWhatLeftTheStream
  constructor
  · intro s ha hh hw hno
    obtain ⟨t, hr, hstream, hp, hkeeps⟩ := srTryRead_incomplete hh hw hno
    exact ⟨_, exec_rdframe_pending ha hr, hstream, hp, congrArg (respond .pending) hkeeps⟩
  · intro s ha hw hp
    rcases hr : srTryRead s with ⟨r, t⟩
    have hpt : RxPartial t := (srTryRead_stream hw hp hr).1
    obtain ⟨m, c, q, p, g, n, rfl⟩ := (srTryRead_readsOnly hr).exists_eq
    cases r with
    | pending =>
      have hstream := srTryRead_keeps_stream hw hp hr (.inr rfl)
      exact ⟨_, exec_rdframe_pending ha hr, hpt, .inl ⟨rfl, hstream⟩⟩
    | fault =>
      have hstream := srTryRead_keeps_stream hw hp hr (.inl rfl)
      exact ⟨_, exec_rdframe_fault ha hr, hpt, .inr (.inl ⟨rfl, hstream⟩)⟩
    | frame f =>
      have hstream := srTryRead_frame_stream hw hp hr
      exact ⟨_, exec_rdframe_frame ha hr, hpt, .inr (.inr ⟨f, rfl, hstream⟩)⟩

end Sys2Proof.Machine
end

section
/-! XSTART and XPOLL: the frame stored, the two poll orders, and what a poll leaves unchanged (43_handshake.md R192, R194 to R200,
R211). -/

namespace Sys2Proof.Machine

/-! ### XSTART -/

theorem exec_xstart_ok {flags ulp : Byte} {payload f : List Byte} {s : State} (ha : s.hsState.active = false)
    (h : encodeFn s.poly s.init flags.toNat ulp.toNat payload = .ok f) :
    exec (.xstart flags ulp payload) s = .next (respond .unit (loadFrame f s)) := by
  simp [exec, execXstart, ha, h]

theorem exec_xstart_error {flags ulp : Byte} {payload : List Byte} {x : Exn} {s : State} (ha : s.hsState.active = false)
    (h : encodeFn s.poly s.init flags.toNat ulp.toNat payload = .error x) :
    exec (.xstart flags ulp payload) s = .next (raise x s) := by
  simp [exec, execXstart, ha, h]

/-- R98: a header of three bytes and the payload. -/
theorem packetFrame_length (poly init : Byte) (flags ulp : Nat) (payload : List Byte) :
    (packetFrame poly init flags ulp payload).length = 3 + payload.length :=
  Nat.add_comm payload.length 3

/-- R192: TXB holds the frame at its front, TX_CNT its length, and TXB behind the frame is as before. -/
theorem loadFrame_txb_spec {f : List Byte} {s : State} (hw : Memory.wf 18 s.txb = true) (hf : f.length ≤ 18) :
    (loadFrame f s).txCnt.toNat = f.length ∧ memRead (loadFrame f s).txb 0 f.length = f ∧
      ∀ a : Nat, f.length ≤ a → Memory.read (loadFrame f s).txb a = Memory.read s.txb a := by
  have hcap : 0 + f.length ≤ 18 := by omega
  refine ⟨?_, memRead_memWrite_same hw hcap, fun a ha => ?_⟩
  · rw [loadFrame_txCnt, BitVec.toNat_ofNat]
    exact Nat.mod_eq_of_lt (by omega)
  · rw [loadFrame_txb, read_memWrite hw hcap, if_neg (by omega)]

/-- Settles O24: EncodeFn answers the frame, and `loadFrame` stores it. -/
theorem xstartStoresTheFrameAndEntersSending : Obligations.XstartStoresTheFrameAndEntersSending := by
  unfold Obligations.XstartStoresTheFrameAndEntersSending
  intro s flags ulp payload ha hfits hw
  have hlength := packetFrame_length s.poly s.init flags.toNat ulp.toNat payload
  have hexec := exec_xstart_ok ha (encodeFn_eq_packetFrame hfits s.poly s.init flags.toNat ulp.toNat)
  generalize packetFrame s.poly s.init flags.toNat ulp.toNat payload = f at hlength hexec ⊢
  obtain ⟨hcount, hfront, hbehind⟩ := loadFrame_txb_spec (f := f) hw (by omega)
  rw [← hlength]
  refine ⟨_, hexec, rfl, ?_, hbehind⟩
  rw [respond_txb, respond_txCnt, hcount, hfront]

/-- Settles O25: EncodeFn refuses the payload before anything is stored. -/
theorem xstartRefusesLongPayload : Obligations.XstartRefusesLongPayload := by
  unfold Obligations.XstartRefusesLongPayload
  intro s flags ulp payload ha hlong
  exact exec_xstart_error ha (encodeFn_error hlong ..)

/-! ### One poll -/

theorem pollOnce_deadlineFirst {s : State} (h : s.pollOrder = .deadlineFirst) : pollOnce s = pollDeadlineFirst s := by
  simp only [pollOnce, h]

theorem pollOnce_frameFirst {s : State} (h : s.pollOrder = .frameFirst) : pollOnce s = pollFrameFirst s := by
  simp only [pollOnce, h]

theorem pollDeadlineFirst_late {s : State} (h : elapsed s > s.timeout) : pollDeadlineFirst s = timeOut s :=
  if_pos h

theorem pollFrameFirst_fault {s t : State} (h : srTryRead s = (.fault, t)) : pollFrameFirst s = faultExchange t := by
  simp only [pollFrameFirst, h]

theorem pollFrameFirst_pending {s t : State} (h : srTryRead s = (.pending, t)) :
    pollFrameFirst s = if elapsed s > s.timeout then timeOut t else t := by
  simp only [pollFrameFirst, h]

theorem pollFrameFirst_frame {s t : State} {f : List Byte} (h : srTryRead s = (.frame f, t)) :
    pollFrameFirst s = settleFrame f t := by
  simp only [pollFrameFirst, h]

/-- R211: up to the deadline its test does nothing, wherever it stands. -/
theorem pollDeadlineFirst_early {s : State} (h : elapsed s ≤ s.timeout) : pollDeadlineFirst s = pollFrameFirst s := by
  have hearly : ¬elapsed s > s.timeout := Nat.not_lt.mpr h
  rcases hr : srTryRead s with ⟨r, t⟩
  cases r with
  | fault => rw [pollFrameFirst_fault hr]; simp only [pollDeadlineFirst, if_neg hearly, hr]
  | pending => rw [pollFrameFirst_pending hr]; simp only [pollDeadlineFirst, if_neg hearly, hr]
  | frame f => rw [pollFrameFirst_frame hr]; simp only [pollDeadlineFirst, if_neg hearly, hr]

theorem exec_xpoll_early {s : State} (hs : s.hsState = .awaitingReply) (h : elapsed s ≤ s.timeout) :
    exec .xpoll s = .next (pollFrameFirst s) := by
  rw [exec_xpoll hs]
  cases ho : s.pollOrder with
  | deadlineFirst => rw [pollOnce_deadlineFirst ho, pollDeadlineFirst_early h]
  | frameFirst => rw [pollOnce_frameFirst ho]

/-- A poll up to the deadline without a complete frame ends in the state the read left (R194). -/
theorem exec_xpoll_pending {s t : State} (hs : s.hsState = .awaitingReply) (h : elapsed s ≤ s.timeout)
    (hr : srTryRead s = (.pending, t)) : exec .xpoll s = .next t := by
  rw [exec_xpoll_early hs h, pollFrameFirst_pending hr, if_neg (Nat.not_lt.mpr h)]

/-- A poll up to the deadline whose read faults (R200). -/
theorem exec_xpoll_fault {s t : State} (hs : s.hsState = .awaitingReply) (h : elapsed s ≤ s.timeout)
    (hr : srTryRead s = (.fault, t)) : exec .xpoll s = .next (faultExchange t) := by
  rw [exec_xpoll_early hs h, pollFrameFirst_fault hr]

/-- Settles O27, by the poll order. -/
theorem xpollTimesOutAfterTheDeadline : Obligations.XpollTimesOutAfterTheDeadline := by
  unfold Obligations.XpollTimesOutAfterTheDeadline
  intro s hs ho hlate
  rw [exec_xpoll hs, pollOnce_deadlineFirst ho, pollDeadlineFirst_late hlate, timeOut]

/-- Settles O28: behind the closed gate the read leaves the state it found. -/
theorem xpollWaitsBehindTheGate : Obligations.XpollWaitsBehindTheGate := by
  unfold Obligations.XpollWaitsBehindTheGate
  intro s hs he hf hgate
  exact exec_xpoll_pending hs he (srTryRead_gateClosed hf hgate)

/-- Settles O29: a failed transport makes the read fault at once, and any fault of the read ends the exchange. -/
theorem xpollReportsTransportFault : Obligations.XpollReportsTransportFault := by
  unfold Obligations.XpollReportsTransportFault
  constructor
  · intro s hs he hf hp
    exact exec_xpoll_fault hs he (srTryRead_tfault hf hp)
  · intro s t hs he hr
    exact exec_xpoll_fault hs he hr

/-- R197, R198: a reply that verifies ends the exchange ACKED or NACKED. -/
theorem acceptReply_hsState_of_not_acked {p : Packet} {s : State} (h : (acceptReply p s).hsState ≠ .acked) :
    (acceptReply p s).hsState = .nacked := by
  rw [acceptReply_hsState] at h ⊢
  cases hack : hasFlag p.flags flagAck with
  | true => rw [if_pos hack] at h; exact absurd rfl h
  | false => rfl

/-- Settles O51: first the silent line, then each way a poll can end over any transport. -/
theorem xpollPendingKeepsTheStream : Obligations.XpollPendingKeepsTheStream := by
  unfold Obligations.XpollPendingKeepsTheStream
  constructor
  · intro s hs he hh hw hno
    obtain ⟨t, hr, hstream, hp, hkeeps⟩ := srTryRead_incomplete hh hw hno
    exact ⟨t, exec_xpoll_pending hs he hr, hstream, hp, hkeeps⟩
  · intro s hs hw hp
    refine ⟨_, exec_xpoll hs, ?_⟩
    cases pollOnce_cases s with
    | deadline _ _ h =>
      rw [h]
      exact ⟨hp, fun _ _ _ => rfl⟩
    | fault t hr h =>
      have hstream := srTryRead_keeps_stream hw hp hr (.inl rfl)
      rw [h]
      exact ⟨(srTryRead_stream hw hp hr).1, fun _ _ _ => hstream⟩
    | waits hr _ =>
      exact ⟨(srTryRead_stream hw hp hr).1, fun _ _ _ => srTryRead_keeps_stream hw hp hr (.inr rfl)⟩
    | late t _ hr _ h =>
      have hstream := srTryRead_keeps_stream hw hp hr (.inr rfl)
      rw [h]
      exact ⟨(srTryRead_stream hw hp hr).1, fun _ _ _ => hstream⟩
    | reply t control len rx payload hr _ _ h =>
      rw [h]
      refine ⟨(srTryRead_stream hw hp hr).1, fun hack hnack => ?_⟩
      exact absurd (acceptReply_hsState_of_not_acked hack) hnack
    | corrupt t control len rx payload hr _ _ h =>
      rw [h]
      exact ⟨(srTryRead_stream hw hp hr).1, fun _ _ hcorrupt => absurd rfl hcorrupt⟩

/-- `t` differs from `s` only in what XPOLL is listed as a writer of, and in the transport's read side (R20). -/
def PollWrites (s t : State) : Prop :=
  t = { s with rxb := t.rxb, rxCnt := t.rxCnt, rxq := t.rxq, readPolicy := t.readPolicy, tfault := t.tfault, choices := t.choices,
               err := t.err, errInfo := t.errInfo, hsState := t.hsState, csRx := t.csRx, csCalc := t.csCalc,
               rpFlags := t.rpFlags, rpUlp := t.rpUlp, rpLen := t.rpLen, rpPay := t.rpPay, rpCsum := t.rpCsum }

theorem pollOnce_writes (s : State) : PollWrites s (pollOnce s) := by
  cases pollOnce_cases s with
  | deadline _ _ h => rw [h]; rfl
  | waits hr _ =>
    obtain ⟨m, c, q, p, g, n, h⟩ := (srTryRead_readsOnly hr).exists_eq
    rw [h]
    rfl
  | fault _ hr h | late _ _ hr _ h | reply _ _ _ _ _ hr _ _ h | corrupt _ _ _ _ _ hr _ _ h =>
    obtain ⟨m, c, q, p, g, n, rfl⟩ := (srTryRead_readsOnly hr).exists_eq
    rw [h]
    rfl

/-- Settles O31, by the ways a poll can end. -/
theorem xpollFrame : Obligations.XpollFrame := by
  unfold Obligations.XpollFrame
  intro s hs hw
  refine ⟨_, exec_xpoll hs, pollOnce_writes s, ?_⟩
  cases pollOnce_cases s with
  | deadline _ _ h =>
    rw [h]
    exact ⟨fun _ _ => ⟨rfl, rfl, rfl, rfl, rfl⟩, fun _ => ⟨rfl, rfl⟩, fun _ => ⟨rfl, rfl⟩, fun _ _ => rfl⟩
  | fault t hr h =>
    obtain ⟨m, c, q, p, g, n, rfl, hother⟩ := srTryRead_writes hw hr
    rw [h]
    exact ⟨fun _ _ => ⟨rfl, rfl, rfl, rfl, rfl⟩, fun _ => ⟨rfl, rfl⟩, fun hne => absurd rfl hne, hother⟩
  | waits hr _ =>
    obtain ⟨m, c, q, p, g, n, h, hother⟩ := srTryRead_writes hw hr
    rw [h]
    exact ⟨fun _ _ => ⟨rfl, rfl, rfl, rfl, rfl⟩, fun _ => ⟨rfl, rfl⟩, fun _ => ⟨rfl, rfl⟩, hother⟩
  | late t _ hr _ h =>
    obtain ⟨m, c, q, p, g, n, rfl, hother⟩ := srTryRead_writes hw hr
    rw [h]
    exact ⟨fun _ _ => ⟨rfl, rfl, rfl, rfl, rfl⟩, fun _ => ⟨rfl, rfl⟩, fun _ => ⟨rfl, rfl⟩, hother⟩
  | reply t control len rx payload hr _ _ h =>
    obtain ⟨m, c, q, p, g, n, rfl, hother⟩ := srTryRead_writes hw hr
    rw [h]
    exact ⟨fun hack hnack => absurd (acceptReply_hsState_of_not_acked hack) hnack, fun _ => ⟨rfl, rfl⟩,
      fun _ => ⟨rfl, rfl⟩, hother⟩
  | corrupt t control len rx payload hr _ _ h =>
    obtain ⟨m, c, q, p, g, n, rfl, hother⟩ := srTryRead_writes hw hr
    rw [h]
    exact ⟨fun _ _ => ⟨rfl, rfl, rfl, rfl, rfl⟩, fun hne => absurd rfl hne, fun _ => ⟨rfl, rfl⟩, hother⟩

/-! ### A complete frame decides -/

/-- With the reference transport SR_TryRead hands over a frame whose parts stand at the front of the stream, and leaves what is behind
it in RXQ. -/
theorem srTryRead_whole_frame {s : State} {control len rx : Byte} {payload more : List Byte} (hf : s.tfault = false)
    (hgreedy : s.readPolicy = .greedy) (hw : Memory.wf 18 s.rxb = true) (hp : RxPartial s)
    (hstream : rxStream s = control :: len :: rx :: payload ++ more) (hlen : payload.length = declaredLen len) :
    ∃ m : Memory, srTryRead s = (.frame (control :: len :: rx :: payload), { s with rxb := m, rxCnt := 0, rxq := more }) := by
  have hneed : frameLen ((rxStream s).getD 1 0) = (control :: len :: rx :: payload).length := by
    rw [hstream, List.length_cons, List.length_cons, List.length_cons, hlen]
    exact Nat.add_comm ..
  have hlength : (rxStream s).length = payload.length + 3 + more.length := by rw [hstream, List.length_append]; rfl
  obtain ⟨m, hread⟩ := srTryRead_greedy hf hgreedy hw hp (by omega) (by rw [hneed, hlength]; exact Nat.le_add_right ..)
  rw [hneed, hstream, List.take_left, List.drop_left] at hread
  exact ⟨m, hread⟩

/-- R92: ACK is bit 6 of the control byte. -/
theorem hasFlag_flagsOf_ack (control : Byte) : hasFlag (flagsOf control) flagAck = control.getLsbD 6 :=
  congrArg NamedFlags.isAck (namedFlags_flagsOf control)

/-- R194, R197, R198: what a reply that verifies writes. -/
theorem acceptReply_packetOf (control rx : Byte) (payload : List Byte) (s : State) :
    acceptReply (packetOf control rx payload) s =
      { s with rpFlags := BitVec.ofNat 5 (control.toNat / 8), rpUlp := BitVec.ofNat 3 (control.toNat % 8),
               rpLen := BitVec.ofNat 4 payload.length, rpPay := memWrite s.rpPay 0 payload, rpCsum := rx,
               hsState := if control.getLsbD 6 then .acked else .nacked } := by
  rw [← hasFlag_flagsOf_ack, show flagsOf control = (packetOf control rx payload).flags by rw [packetOf_eq]]
  rfl

/-- RP_PAY holds the payload at its front and is as before behind it (R28). -/
theorem acceptReply_rpPay_spec {p : Packet} {s : State} (hw : Memory.wf 15 s.rpPay = true) (hp : p.payload.length ≤ 15) :
    memRead (acceptReply p s).rpPay 0 p.payload.length = p.payload ∧
      ∀ a : Nat, p.payload.length ≤ a → Memory.read (acceptReply p s).rpPay a = Memory.read s.rpPay a := by
  have hcap : 0 + p.payload.length ≤ 15 := by omega
  refine ⟨memRead_memWrite_same hw hcap, fun a ha => ?_⟩
  rw [acceptReply_rpPay, read_memWrite hw hcap, if_neg (by omega)]

/-- Settles O30: the read hands over the frame, and its checksum decides first. -/
theorem xpollFrameDecidesTheOutcome : Obligations.XpollFrameDecidesTheOutcome := by
  unfold Obligations.XpollFrameDecidesTheOutcome
  intro s control len rx payload more hs he hf hgreedy hw hwPay hp hstream hlen
  obtain ⟨m, hr⟩ := srTryRead_whole_frame hf hgreedy hw hp hstream hlen
  refine ⟨_, exec_xpoll_early hs he, fun hwrong => ?_, fun hright => ?_⟩
  · rw [pollFrameFirst_frame hr, settleFrame_frame, if_neg (by exact hwrong)]
    rfl
  · rw [pollFrameFirst_frame hr, settleFrame_frame, if_pos (by exact hright), ← packetOf_eq]
    exact ⟨acceptReply_packetOf .., acceptReply_rpPay_spec (p := packetOf control rx payload) hwPay (hlen ▸ declaredLen_le len)⟩

/-- Settles O32: each clause is one equation of the two polls. -/
theorem pollOrdersDifferOnlyAfterTheDeadline : Obligations.PollOrdersDifferOnlyAfterTheDeadline := by
  unfold Obligations.PollOrdersDifferOnlyAfterTheDeadline
  refine ⟨fun s hs => ⟨fun ho => ?_, fun ho => ?_⟩, fun s => pollDeadlineFirst_early, fun s => pollDeadlineFirst_late,
    fun s _ hf hp => pollFrameFirst_fault (srTryRead_tfault hf hp), fun s t _ hr => pollFrameFirst_fault hr,
    fun s hlate hf hgate => ?_, fun s hlate hh hw hno => ?_, ?_⟩
  · rw [exec_xpoll hs, pollOnce_deadlineFirst ho]
  · rw [exec_xpoll hs, pollOnce_frameFirst ho]
  · rw [pollFrameFirst_pending (srTryRead_gateClosed hf hgate), if_pos hlate, timeOut]
  · obtain ⟨t, hr, hstream, -, hkeeps⟩ := srTryRead_incomplete hh hw hno
    rw [pollFrameFirst_pending hr, if_pos hlate]
    exact ⟨_, rfl, hstream, congrArg timeOut hkeeps⟩
  · intro s control len rx payload more _ hf hgreedy hw hp hstream hlen
    obtain ⟨m, hr⟩ := srTryRead_whole_frame hf hgreedy hw hp hstream hlen
    rw [pollFrameFirst_frame hr, settleFrame_frame]
    by_cases hright : crc8 (control :: len :: payload) s.poly s.init = rx
    · rw [if_pos (by exact hright), if_neg (not_not_intro hright), ← hasFlag_flagsOf_ack]
      rfl
    · rw [if_neg (by exact hright), if_pos hright]
      rfl

/-! ### A delivered frame decides -/

/-- R96, R99: the checksum test of a frame, with this hardware's POLY and INIT. -/
theorem frameVerifies_iff {flags : BitVec 5} {ulp : BitVec 3} {rsv : BitVec 4} {csum : Byte} {payload : List Byte} :
    frameVerifies flags ulp rsv csum payload = true ↔
      frameCsum 0x07 0x00 (flags ++ ulp) (rsv ++ BitVec.ofNat 4 payload.length) payload = csum :=
  beq_iff_eq

/-- R92: ACK is bit 3 of the flags. -/
theorem hasFlag_ack (flags : BitVec 5) : hasFlag flags flagAck = flags.getLsbD 3 := by
  revert flags; decide

/-- R92: the flags as the sum of their five bits. -/
theorem flagsOfBits_eq_ofNat (st a g n t : Bool) :
    flagsOfBits st a g n t = BitVec.ofNat 5 (16 * st.toNat + 8 * a.toNat + 4 * g.toNat + 2 * n.toNat + t.toNat) := by
  revert st a g n t; decide

/-- A waiting exchange up to its deadline, nothing held or queued, over the reference transport and with this hardware's POLY and
INIT. -/
structure AwaitsDelivery (s : State) : Prop where
  waiting : s.hsState = .awaitingReply
  early : elapsed s ≤ s.timeout
  works : s.tfault = false
  greedy : s.readPolicy = .greedy
  poly : s.poly = 0x07
  init : s.init = 0x00
  noneHeld : s.rxCnt = 0
  noneQueued : s.rxq = []
  rxbWf : Memory.wf 18 s.rxb = true
  rpPayWf : Memory.wf 15 s.rpPay = true

/-- The frame delivered is the frame the next poll settles. -/
theorem AwaitsDelivery.poll {s : State} (h : AwaitsDelivery s) {payload : List Byte} (hlen : payload.length ≤ 15)
    (flags : BitVec 5) (ulp : BitVec 3) (rsv : BitVec 4) (csum : Byte) :
    ∃ m : Memory, exec .xpoll (arriveBytes (frameBytes flags ulp rsv csum payload) s) =
      .next (settleFrame (frameBytes flags ulp rsv csum payload) { s with rxb := m, rxCnt := 0, rxq := [] }) := by
  have hstream : rxStream (arriveBytes (frameBytes flags ulp rsv csum payload) s) =
      (flags ++ ulp) :: (rsv ++ BitVec.ofNat 4 payload.length) :: csum :: payload ++ [] := by
    simp [rxStream, heldBytes, h.noneHeld, h.noneQueued, memRead, frameBytes]
  have hdeclared : payload.length = declaredLen (rsv ++ BitVec.ofNat 4 payload.length) := by
    rw [declaredLen_append, toNat_ofNat4_length hlen]
  have hp : RxPartial (arriveBytes (frameBytes flags ulp rsv csum payload) s) := by
    left
    rw [arriveBytes_rxCnt, h.noneHeld]
    decide
  obtain ⟨m, hr⟩ := srTryRead_whole_frame (s := arriveBytes (frameBytes flags ulp rsv csum payload) s) h.works h.greedy h.rxbWf hp
    hstream hdeclared
  have hexec := exec_xpoll_early (s := arriveBytes (frameBytes flags ulp rsv csum payload) s) h.waiting h.early
  rw [pollFrameFirst_frame hr] at hexec
  exact ⟨m, hexec⟩

/-- R196: delivered and polled, a frame that does not verify ends the exchange CORRUPT. -/
theorem AwaitsDelivery.poll_corrupt {s : State} (h : AwaitsDelivery s) {flags : BitVec 5} {ulp : BitVec 3} {rsv : BitVec 4}
    {csum : Byte} {payload : List Byte} (hlen : payload.length ≤ 15) (hv : frameVerifies flags ulp rsv csum payload = false) :
    ∃ m : Memory, exec .xpoll (arriveBytes (frameBytes flags ulp rsv csum payload) s) =
      .next (corruptReply csum (frameCsum 0x07 0x00 (flags ++ ulp) (rsv ++ BitVec.ofNat 4 payload.length) payload)
        { s with rxb := m, rxCnt := 0, rxq := [] }) := by
  obtain ⟨m, hpoll⟩ := h.poll hlen flags ulp rsv csum
  refine ⟨m, hpoll.trans ?_⟩
  have hne : ¬frameCsum 0x07 0x00 (flags ++ ulp) (rsv ++ BitVec.ofNat 4 payload.length) payload = csum := fun heq =>
    absurd (hv.symm.trans (frameVerifies_iff.mpr heq)) nofun
  rw [frameBytes, settleFrame_frame, h.poly, h.init, if_neg hne]

/-- `u` has the packet of a frame in RP_* (R28). -/
def HoldsReply (u : State) (flags : BitVec 5) (ulp : BitVec 3) (csum : Byte) (payload : List Byte) : Prop :=
  u.rpFlags = flags ∧ u.rpUlp = ulp ∧ u.rpLen.toNat = payload.length ∧ memRead u.rpPay 0 payload.length = payload ∧ u.rpCsum = csum

/-- R197, R198: delivered and polled, a frame that verifies ends the exchange by its ACK flag, its packet in RP_*. -/
theorem AwaitsDelivery.poll_reply {s : State} (h : AwaitsDelivery s) {flags : BitVec 5} {ulp : BitVec 3} {rsv : BitVec 4}
    {csum : Byte} {payload : List Byte} (hlen : payload.length ≤ 15) (hv : frameVerifies flags ulp rsv csum payload = true) :
    ∃ u : State, exec .xpoll (arriveBytes (frameBytes flags ulp rsv csum payload) s) = .next u ∧ u.rxq = [] ∧ u.rxCnt = 0 ∧
      u.hsState = (if flags.getLsbD 3 then .acked else .nacked) ∧ HoldsReply u flags ulp csum payload := by
  obtain ⟨m, hpoll⟩ := h.poll hlen flags ulp rsv csum
  rw [frameBytes, settleFrame_frame, h.poly, h.init, if_pos (frameVerifies_iff.mp hv), flagsOf_append, ulpOf_append] at hpoll
  have hpay := (acceptReply_rpPay_spec (p := ⟨flags, ulp, payload, csum⟩) (s := { s with rxb := m, rxCnt := 0, rxq := [] })
    h.rpPayWf hlen).1
  refine ⟨_, hpoll, rfl, rfl, ?_, rfl, rfl, toNat_ofNat4_length hlen, hpay, rfl⟩
  rw [acceptReply_hsState, hasFlag_ack]

/-- Settles O49, by the four frame rows; the other rows do not come in by line or peer. -/
theorem deliveredFrameDecidesTheExchange : Obligations.DeliveredFrameDecidesTheExchange := by
  unfold Obligations.DeliveredFrameDecidesTheExchange
  intro s t i hs he hf hgreedy hpoly hinit hcnt hq hw hwPay hwf hport hexec
  have h : AwaitsDelivery s := ⟨hs, he, hf, hgreedy, hpoly, hinit, hcnt, hq, hw, hwPay⟩
  rw [exec_arrives s hport] at hexec
  cases hexec
  cases i with
  | frame flags ulp rsv csum payload =>
    obtain ⟨hlen, hv⟩ := Bool.and_eq_true_iff.mp hwf
    obtain ⟨m, hpoll⟩ := h.poll_corrupt (of_decide_eq_true hlen) ((Bool.not_eq_true' _).mp hv)
    refine ⟨_, hpoll, rfl, rfl, ?_, nofun, nofun, nofun⟩
    rintro _ _ _ _ _ ⟨⟩
    exact ⟨rfl, rfl, rfl⟩
  | frameEncoded flags ulp csum payload =>
    obtain ⟨hlen, hv⟩ := Bool.and_eq_true_iff.mp hwf
    obtain ⟨u, hpoll, hrxq, hrxCnt, hstate, hreply⟩ := h.poll_reply (of_decide_eq_true hlen) hv
    refine ⟨u, hpoll, hrxq, hrxCnt, nofun, ?_, nofun, nofun⟩
    rintro _ _ _ _ ⟨⟩
    exact ⟨hstate, hreply⟩
  | frameAck st g n t ulp rsv csum payload =>
    obtain ⟨hlen, hv⟩ := Bool.and_eq_true_iff.mp hwf
    obtain ⟨u, hpoll, hrxq, hrxCnt, hstate, hreply⟩ := h.poll_reply (of_decide_eq_true hlen) hv
    rw [(getLsbD_flagsOfBits st true g n t).2.1] at hstate
    rw [flagsOfBits_eq_ofNat] at hreply
    refine ⟨u, hpoll, hrxq, hrxCnt, nofun, nofun, ?_, nofun⟩
    rintro _ _ _ _ _ _ _ _ ⟨⟩
    exact ⟨hstate, hreply⟩
  | frameNack st g n t ulp rsv csum payload =>
    obtain ⟨hlen, hv⟩ := Bool.and_eq_true_iff.mp hwf
    obtain ⟨u, hpoll, hrxq, hrxCnt, hstate, hreply⟩ := h.poll_reply (of_decide_eq_true hlen) hv
    rw [(getLsbD_flagsOfBits st false g n t).2.1] at hstate
    rw [flagsOfBits_eq_ofNat] at hreply
    refine ⟨u, hpoll, hrxq, hrxCnt, nofun, nofun, nofun, ?_⟩
    rintro _ _ _ _ _ _ _ _ ⟨⟩
    exact ⟨hstate, hreply⟩
  | _ => simp [encode] at hport

end Sys2Proof.Machine
end

section
/-! What every step keeps: HS_STATE but for the transition table, TXLOG, ERR and ERR_INFO, and the registers a step is not a writer of
(10_state.md R20, R31, 43_handshake.md R191, R202, 60_exceptions.md R238). -/

namespace Sys2Proof.Machine

/-- The step's item is taken in the state with the agenda used up. -/
theorem nextItem_exists_agenda {s s1 : State} {item : NextItem} (h : nextItem s = (item, s1)) :
    ∃ rest, s1 = { s with agenda := rest } := by
  have hstate := nextItem_state s
  rw [h] at hstate
  exact ⟨_, hstate⟩

/-! ### HS_STATE -/

/-- R194, R211: a poll ends the exchange, or it is not past the deadline and has only read. -/
theorem pollOnce_ends_or_waits (s : State) :
    (pollOnce s).hsState.terminal = true ∨ (elapsed s ≤ s.timeout ∧ ReadsOnly s (pollOnce s)) := by
  cases pollOnce_cases s with
  | deadline _ _ h => rw [h]; exact .inl rfl
  | fault t _ h => rw [h]; exact .inl rfl
  | waits hr he => exact .inr ⟨he, srTryRead_readsOnly hr⟩
  | late t _ _ _ h => rw [h]; exact .inl rfl
  | reply t control len rx payload _ _ _ h =>
    rw [h, acceptReply_hsState]
    split
    · exact .inl rfl
    · exact .inl rfl
  | corrupt t control len rx payload _ _ _ h => rw [h]; exact .inl rfl

/-- R193: a send ends waiting or FAULTED. -/
theorem sendFrame_hsState (f : List Byte) (s : State) :
    (sendFrame f s).hsState = .awaitingReply ∨ (sendFrame f s).hsState = .faulted := by
  rcases sendFrame_cases f s with ⟨-, h⟩ | ⟨-, n, h⟩ <;> rw [h]
  · exact .inl rfl
  · exact .inr rfl

/-- R191 for an instruction. -/
theorem ExecEnds.hsState_moves {i : Instr} {s t : State} (h : ExecEnds i s t) :
    t.hsState = s.hsState ∨ mayMove (causeOf (.instr i)) s.hsState t.hsState = true := by
  cases h with
  | acc | codec | raised | disabled | arrived => exact .inl rfl
  | started frame ha _ => exact .inr (by simp [causeOf, mayMove, ha])
  | abandoned => exact .inr rfl
  | readFault t _ hr | readPending t _ hr | readFrame t _ _ hr => exact .inl (srTryRead_readsOnly hr).hsState_eq
  | sent hs _ =>
    right
    rcases sendFrame_hsState (memRead s.txb 0 s.txCnt.toNat) s with ht | ht <;> simp [causeOf, mayMove, hs, ht]
  | polled hs =>
    rcases pollOnce_ends_or_waits s with ht | ⟨-, hreads⟩
    · exact .inr (by simp [causeOf, mayMove, hs, ht])
    · exact .inl hreads.hsState_eq

/-- Settles O34: an instruction by `ExecEnds`; of the environment only RESET moves HS_STATE. -/
theorem hsStateChangesOnlyAsTheTableSays : Obligations.HsStateChangesOnlyAsTheTableSays := by
  unfold Obligations.HsStateChangesOnlyAsTheTableSays
  intro s t h
  cases step_cases h with
  | instr i s1 hn hends =>
    obtain ⟨rest, rfl⟩ := nextItem_exists_agenda hn
    rw [hn]
    exact hends.hsState_moves
  | env e s1 hn ht =>
    obtain ⟨rest, rfl⟩ := nextItem_exists_agenda hn
    rw [hn, ht]
    cases e with
    | reset => exact .inr rfl
    | arrive | fail | repair | tick => exact .inl rfl
  | quiet hn =>
    obtain ⟨rest, rfl⟩ := nextItem_exists_agenda hn
    exact .inl rfl

/-! ### TXLOG -/

theorem ReadsOnly.txlog_eq {s t : State} (h : ReadsOnly s t) : t.txlog = s.txlog := by rw [h]

/-- R202, R203 for an instruction. -/
theorem ExecEnds.txlog_grows {i : Instr} {s t : State} (h : ExecEnds i s t) :
    t.txlog = s.txlog ∨ (s.hsState = .sending ∧ i = .xsend ∧
      ∃ n : Nat, t.txlog = s.txlog ++ (memRead s.txb 0 s.txCnt.toNat).take n) := by
  cases h with
  | acc | codec | raised | started | abandoned | disabled | arrived => exact .inl rfl
  | readFault t _ hr | readPending t _ hr | readFrame t _ _ hr => exact .inl (srTryRead_readsOnly hr).txlog_eq
  | polled _ => exact .inl (by rw [pollOnce_writes s])
  | sent hs _ =>
    refine .inr ⟨hs, rfl, ?_⟩
    rcases sendFrame_cases (memRead s.txb 0 s.txCnt.toNat) s with ⟨-, h⟩ | ⟨-, n, h⟩ <;> rw [h]
    · exact ⟨s.txCnt.toNat, by rw [List.take_of_length_le (by simp)]⟩
    · exact ⟨n, rfl⟩

/-- Settles O35: an instruction by `ExecEnds`; the environment does not write. -/
theorem onlyXsendWritesTheTransport : Obligations.OnlyXsendWritesTheTransport := by
  unfold Obligations.OnlyXsendWritesTheTransport
  intro s t h
  cases step_cases h with
  | instr i s1 hn hends =>
    obtain ⟨rest, rfl⟩ := nextItem_exists_agenda hn
    rw [hn]
    exact hends.txlog_grows.imp_right fun ⟨hs, hi, hfront⟩ => ⟨hs, congrArg NextItem.instr hi, hfront⟩
  | env e s1 hn ht =>
    obtain ⟨rest, rfl⟩ := nextItem_exists_agenda hn
    rw [ht]
    cases e <;> exact .inl rfl
  | quiet hn =>
    obtain ⟨rest, rfl⟩ := nextItem_exists_agenda hn
    exact .inl rfl

/-! ### ERR and ERR_INFO -/

/-- What an instruction that leads from `s` to `t` responds, and what it does to ERR and ERR_INFO. -/
inductive Answers (i : Instr) (s t : State) : Prop where
  /-- it raises (R238); only RDFRAME's TransportFault changes more (R182) -/
  | raised (x : Exn) (hr : t.responses = s.responses ++ [.fail x]) (he : t.err = x.code ∧ t.errInfo = x.info)
    (ht : t = raise x s ∨ i = .rdframe ∧ x = .transportFault)
  /-- it responds with a result -/
  | responded (v : Response) (hv : ∀ x, v ≠ .fail x) (hr : t.responses = s.responses ++ [v])
    (he : t.err = s.err ∧ t.errInfo = s.errInfo)
  /-- it is no command, and does not respond; a transport failure ends the exchange FAULTED (R200) -/
  | silent (hr : t.responses = s.responses)
    (he : (t.err = s.err ∧ t.errInfo = s.errInfo) ∨ (t.hsState = .faulted ∧ t.err = 4 ∧ t.errInfo = 0))

theorem pollOnce_answers (s : State) : Answers .xpoll s (pollOnce s) := by
  cases pollOnce_cases s with
  | deadline _ _ h => rw [h]; exact .silent rfl (.inl ⟨rfl, rfl⟩)
  | waits hr _ =>
    obtain ⟨m, c, q, p, g, n, h⟩ := (srTryRead_readsOnly hr).exists_eq
    rw [h]
    exact .silent rfl (.inl ⟨rfl, rfl⟩)
  | fault _ hr h =>
    obtain ⟨m, c, q, p, g, n, rfl⟩ := (srTryRead_readsOnly hr).exists_eq
    rw [h]
    exact .silent rfl (.inr ⟨rfl, rfl, rfl⟩)
  | late _ _ hr _ h | reply _ _ _ _ _ hr _ _ h | corrupt _ _ _ _ _ hr _ _ h =>
    obtain ⟨m, c, q, p, g, n, rfl⟩ := (srTryRead_readsOnly hr).exists_eq
    rw [h]
    exact .silent rfl (.inl ⟨rfl, rfl⟩)

/-- Every instruction answers in one of these ways. -/
theorem ExecEnds.answers {i : Instr} {s t : State} (h : ExecEnds i s t) : Answers i s t := by
  cases h with
  | acc v _ => exact .responded (.acc v) nofun rfl ⟨rfl, rfl⟩
  | codec v _ hv => exact .responded v hv rfl ⟨rfl, rfl⟩
  | raised x _ _ => exact .raised x rfl ⟨rfl, rfl⟩ (.inl rfl)
  | started | abandoned => exact .responded .unit nofun rfl ⟨rfl, rfl⟩
  | readFault t _ hr =>
    obtain ⟨m, c, q, p, g, n, rfl⟩ := (srTryRead_readsOnly hr).exists_eq
    exact .raised .transportFault rfl ⟨rfl, rfl⟩ (.inr ⟨rfl, rfl⟩)
  | readPending t _ hr =>
    obtain ⟨m, c, q, p, g, n, rfl⟩ := (srTryRead_readsOnly hr).exists_eq
    exact .responded .pending nofun rfl ⟨rfl, rfl⟩
  | readFrame t f _ hr =>
    obtain ⟨m, c, q, p, g, n, rfl⟩ := (srTryRead_readsOnly hr).exists_eq
    exact .responded (.received f) nofun rfl ⟨rfl, rfl⟩
  | sent _ _ =>
    rcases sendFrame_cases (memRead s.txb 0 s.txCnt.toNat) s with ⟨-, h⟩ | ⟨-, n, h⟩ <;> rw [h]
    · exact .silent rfl (.inl ⟨rfl, rfl⟩)
    · exact .silent rfl (.inr ⟨rfl, rfl, rfl⟩)
  | polled _ => exact pollOnce_answers s
  | disabled | arrived => exact .silent rfl (.inl ⟨rfl, rfl⟩)

/-- Settles O39: of the answers only `raised` ends with `fail`. -/
theorem raiseChangesOnlyErrAndErrInfo : Obligations.RaiseChangesOnlyErrAndErrInfo := by
  unfold Obligations.RaiseChangesOnlyErrAndErrInfo
  intro i s t x h hresponses
  cases (exec_cases h).answers with
  | raised y hr he ht =>
    obtain rfl : y = x := by simpa using hr.symm.trans hresponses
    exact ⟨he.1, he.2, ht⟩
  | responded v hv hr _ => exact absurd (by simpa using hr.symm.trans hresponses) (hv x)
  | silent hr _ => simp [hr] at hresponses

/-- Settles O40: an instruction by its answer; of the environment only RESET writes ERR and ERR_INFO. -/
theorem errIsSticky : Obligations.ErrIsSticky := by
  unfold Obligations.ErrIsSticky
  intro s t h hchanged
  have hsame : ¬(t.err = s.err ∧ t.errInfo = s.errInfo) := fun he => hchanged.elim (· he.1) (· he.2)
  cases step_cases h with
  | instr i s1 hn hends =>
    obtain ⟨rest, rfl⟩ := nextItem_exists_agenda hn
    cases hends.answers with
    | raised x hr he _ => exact .inl ⟨x, hr, he.1, he.2⟩
    | responded _ _ _ he => exact absurd he hsame
    | silent _ he => exact .inr (.inl (he.resolve_left hsame))
  | env e s1 hn ht =>
    obtain ⟨rest, rfl⟩ := nextItem_exists_agenda hn
    rw [hn]
    cases e with
    | reset => exact .inr (.inr rfl)
    | arrive | fail | repair | tick => exact absurd (by rw [ht]; exact ⟨rfl, rfl⟩) hsame
  | quiet hn =>
    obtain ⟨rest, rfl⟩ := nextItem_exists_agenda hn
    exact absurd ⟨rfl, rfl⟩ hsame

/-! ### The registers as the host reads them -/

/-- R20 for a step with this item: the host reads the register as before, or the item is listed as a writer of it. -/
def WritesAsListed (item : NextItem) (s t : State) : Prop :=
  ∀ r : RegName, hostRead r t = hostRead r s ∨ mayWrite item r = true

theorem ReadsOnly.hostRead_eq {s t : State} (h : ReadsOnly s t) (r : RegName) :
    hostRead r t = hostRead r s ∨ r = .RXB ∨ r = .RX_CNT := by
  obtain ⟨m, c, q, p, g, n, rfl⟩ := h.exists_eq
  cases r <;> simp [hostRead]

theorem raise_hostRead (x : Exn) (s : State) (r : RegName) :
    hostRead r (raise x s) = hostRead r s ∨ r = .ERR ∨ r = .ERR_INFO := by
  cases r <;> simp [hostRead]

theorem respond_hostRead (v : Response) (s : State) (r : RegName) : hostRead r (respond v s) = hostRead r s := by
  cases r <;> rfl

theorem setAcc_hostRead (v : Byte) (s : State) (r : RegName) : hostRead r (setAcc v s) = hostRead r s ∨ r = .ACC := by
  cases r <;> simp [hostRead]

theorem mayWrite_of_raises {i : Instr} {r : RegName}
    (hi : (∃ f u p, i = .encode f u p ∨ i = .xstart f u p) ∨ (∃ b, i = .decode b) ∨ i = .rdframe ∨
      i ∈ [Instr.illegal0, .illegal7, .illegalA, .illegalB, .illegalC, .illegalD, .illegalE, .illegalF])
    (hr : r = .ERR ∨ r = .ERR_INFO) : mayWrite (.instr i) r = true := by
  rcases hi with ⟨f, u, p, rfl | rfl⟩ | ⟨b, rfl⟩ | rfl | hi
  · rcases hr with rfl | rfl <;> rfl
  · rcases hr with rfl | rfl <;> rfl
  · rcases hr with rfl | rfl <;> rfl
  · rcases hr with rfl | rfl <;> rfl
  · simp only [List.mem_cons, List.not_mem_nil, or_false] at hi
    rcases hi with rfl | rfl | rfl | rfl | rfl | rfl | rfl | rfl <;> rcases hr with rfl | rfl <;> rfl

theorem ExecEnds.writesAsListed {i : Instr} {s t : State} (h : ExecEnds i s t) : WritesAsListed (.instr i) s t := by
  intro r
  cases h with
  | acc v hi =>
    refine (setAcc_hostRead v s r).imp_right ?_
    rintro rfl
    rcases hi with rfl | ⟨b, rfl⟩ | ⟨d, rfl⟩ <;> rfl
  | codec v _ _ => exact .inl (respond_hostRead v s r)
  | raised x hi _ => exact (raise_hostRead x s r).imp_right (mayWrite_of_raises hi)
  | started frame _ _ => cases r <;> simp [hostRead, mayWrite]
  | abandoned => cases r <;> simp [hostRead, mayWrite]
  | readFault t _ hr =>
    rcases raise_hostRead .transportFault t r with h | h
    · rw [h]
      exact ((srTryRead_readsOnly hr).hostRead_eq r).imp_right fun h => by rcases h with rfl | rfl <;> rfl
    · exact .inr (mayWrite_of_raises (.inr (.inr (.inl rfl))) h)
  | readPending t _ hr | readFrame t _ _ hr =>
    rw [respond_hostRead]
    exact ((srTryRead_readsOnly hr).hostRead_eq r).imp_right fun h => by rcases h with rfl | rfl <;> rfl
  | sent _ _ =>
    rcases sendFrame_cases (memRead s.txb 0 s.txCnt.toNat) s with ⟨-, h⟩ | ⟨-, n, h⟩ <;> rw [h]
    · cases r <;> simp [hostRead, mayWrite]
    · cases r <;> simp [hostRead, mayWrite]
  | polled _ =>
    rw [pollOnce_writes s]
    cases r <;> simp [hostRead, mayWrite]
  | disabled => exact .inl rfl
  | arrived => exact .inl (by cases r <;> rfl)

theorem applyEnv_writesAsListed (e : EnvEvent) (s : State) : WritesAsListed (.env e) s (applyEnv e s) := by
  intro r
  cases e with
  | reset => cases r <;> simp [applyEnv, hostRead, mayWrite]
  | arrive | fail | repair | tick => exact .inl (by cases r <;> rfl)

/-- Settles O41: the host reads no register of the agenda, so the step's item decides. -/
theorem stepWritesOnlyItsRegisters : Obligations.StepWritesOnlyItsRegisters := by
  unfold Obligations.StepWritesOnlyItsRegisters
  intro s t r h hchanged
  have hagenda : ∀ rest, hostRead r { s with agenda := rest } = hostRead r s := fun rest => by cases r <;> rfl
  cases step_cases h with
  | instr i s1 hn hends =>
    obtain ⟨rest, rfl⟩ := nextItem_exists_agenda hn
    rw [hn]
    exact (hends.writesAsListed r).resolve_left (hagenda rest ▸ hchanged)
  | env e s1 hn ht =>
    obtain ⟨rest, rfl⟩ := nextItem_exists_agenda hn
    rw [hn]
    subst ht
    exact (applyEnv_writesAsListed e _ r).resolve_left (hagenda rest ▸ hchanged)
  | quiet hn =>
    obtain ⟨rest, rfl⟩ := nextItem_exists_agenda hn
    exact absurd (hagenda rest) hchanged

end Sys2Proof.Machine
end

section
/-! The invariant: it holds after reset, every step keeps it, and under it no step faults (10_state.md R23, R24, R27, R28, R30, R105,
43_handshake.md R197, R198, 20_memory.md R61). -/

namespace Sys2Proof.Machine

/-! ### Updates that keep the invariant -/

theorem TxFrameOk.congr {s t : State} (htxb : t.txb = s.txb) (hcnt : t.txCnt = s.txCnt) (hpoly : t.poly = s.poly)
    (hinit : t.init = s.init) (h : TxFrameOk s) : TxFrameOk t where
  low := by rw [hcnt]; exact h.low
  high := by rw [hcnt]; exact h.high
  count := by rw [hcnt, htxb]; exact h.count
  reserved := by rw [htxb]; exact h.reserved
  checksum := by rw [hcnt, htxb, hpoly, hinit]; exact h.checksum

section
variable {s : State}

/-- An update that leaves TXB, TX_CNT and the configuration leaves the frame. -/
theorem Inv.txFrame_congr {t : State} (h : Inv s) (htxb : t.txb = s.txb) (hcnt : t.txCnt = s.txCnt) (hpoly : t.poly = s.poly)
    (hinit : t.init = s.init) : t.txCnt = 0 ∨ TxFrameOk t :=
  h.txFrame.imp hcnt.trans (.congr htxb hcnt hpoly hinit)

theorem Inv.setAgenda (h : Inv s) (rest : List Event) : Inv { s with agenda := rest } :=
  { h with txFrame := h.txFrame_congr rfl rfl rfl rfl }

theorem Inv.respond (h : Inv s) (v : Response) : Inv (respond v s) :=
  { h with txFrame := h.txFrame_congr rfl rfl rfl rfl }

theorem Inv.setAcc (h : Inv s) (v : Byte) : Inv (setAcc v s) :=
  { h with txFrame := h.txFrame_congr rfl rfl rfl rfl }

theorem Inv.arriveBytes (h : Inv s) (bytes : List Byte) : Inv (arriveBytes bytes s) :=
  { h with txFrame := h.txFrame_congr rfl rfl rfl rfl }

theorem Inv.setTfault (h : Inv s) (b : Bool) : Inv { s with tfault := b } :=
  { h with txFrame := h.txFrame_congr rfl rfl rfl rfl }

theorem Inv.setErr (h : Inv s) {e : BitVec 3} (he : e ≠ 5) (info : BitVec 16) : Inv { s with err := e, errInfo := info } :=
  { h with txFrame := h.txFrame_congr rfl rfl rfl rfl, errNotTimeout := he }

/-- R105: of the exceptions only Timeout has code 5. -/
theorem Exn.eq_timeout_of_code {x : Exn} (h : x.code = 5) : x = .timeout := by
  cases x with
  | timeout => rfl
  | _ => simp [Exn.code] at h

theorem Inv.raise (h : Inv s) {x : Exn} (hx : x ≠ .timeout) : Inv (raise x s) :=
  (h.setErr (fun hcode => hx (Exn.eq_timeout_of_code hcode)) x.info).respond (.fail x)

/-- HS_STATE moves to a state of which the invariant asks nothing. -/
theorem Inv.setPlainState (h : Inv s) {hs : HsState} (hplain : hs = .idle ∨ hs = .timedOut ∨ hs = .faulted) :
    Inv { s with hsState := hs } := by
  rcases hplain with rfl | rfl | rfl <;>
    exact { h with
      txFrame := h.txFrame_congr rfl rfl rfl rfl
      txLoaded := nofun
      corruptPair := nofun
      ackedFlag := nofun
      nackedFlag := nofun }

theorem Inv.timeOut (h : Inv s) : Inv (timeOut s) := h.setPlainState (.inr (.inl rfl))

theorem Inv.faultExchange (h : Inv s) : Inv (faultExchange s) :=
  (h.setErr (e := 4) (by decide) 0).setPlainState (.inr (.inr rfl))

/-! ### The Stream Reader -/

theorem Inv.readsOnly {t : State} (h : Inv s) (hreads : ReadsOnly s t) (hw : Memory.wf 18 t.rxb = true) (hp : RxPartial t) :
    Inv t := by
  obtain ⟨m, c, q, p, g, n, rfl⟩ := hreads.exists_eq
  exact { h with txFrame := h.txFrame_congr rfl rfl rfl rfl, rxbWf := hw, rxPartial := hp }

/-- R24: after SR_TryRead no complete frame is held, so it keeps the invariant. -/
theorem Inv.srTryRead {t : State} {r : SrResult} (h : Inv s) (hr : srTryRead s = (r, t)) : Inv t :=
  h.readsOnly (srTryRead_readsOnly hr) (srTryRead_rxb h.rxbWf hr).1 (srTryRead_stream h.rxbWf h.rxPartial hr).1

/-! ### The Handshake Controller -/

/-- R94: the length byte of an encoded frame has its top nibble zero. -/
theorem reservedOf_lengthByte {n : Nat} (h : n ≤ 15) : reservedOf (lengthByte n) = 0 := by
  have hall : ∀ k : Fin 16, reservedOf (lengthByte k.val) = 0 := by decide
  exact hall ⟨n, by omega⟩

/-- R192: XSTART leaves an encoded frame in TXB. -/
theorem txFrameOk_loadFrame {flags ulp : Nat} {payload f : List Byte} (hw : Memory.wf 18 s.txb = true)
    (he : encodeFn s.poly s.init flags ulp payload = .ok f) : TxFrameOk (loadFrame f s) ∧ f.length ≤ 18 := by
  have hfits := length_le_of_encodeFn_ok he
  rw [encodeFn_ok hfits] at he
  generalize hcontrol : controlByte flags ulp = control at he
  generalize hcsum : frameCsum s.poly s.init control (lengthByte payload.length) payload = csum at he
  cases he
  have hlength : (control :: lengthByte payload.length :: csum :: payload).length = 3 + payload.length := by
    simp only [List.length_cons]
    omega
  obtain ⟨hcount, hfront, -⟩ := loadFrame_txb_spec (f := control :: lengthByte payload.length :: csum :: payload) hw (by omega)
  have hpoly : (loadFrame (control :: lengthByte payload.length :: csum :: payload) s).poly = s.poly := rfl
  have hinit : (loadFrame (control :: lengthByte payload.length :: csum :: payload) s).init = s.init := rfl
  generalize loadFrame (control :: lengthByte payload.length :: csum :: payload) s = t at *
  rw [hlength] at hcount hfront ⊢
  have hheader : memRead t.txb 0 3 = [t.txb.read 0, t.txb.read 1, t.txb.read 2] := rfl
  rw [memRead_add, hheader] at hfront
  simp only [List.cons_append, List.nil_append, Nat.zero_add, List.cons.injEq] at hfront
  obtain ⟨h0, h1, h2, hpayload⟩ := hfront
  refine ⟨⟨by omega, by omega, ?_, ?_, ?_⟩, by omega⟩
  · rw [hcount, h1, frameLen, declaredLen_lengthByte hfits]
  · rw [h1, reservedOf_lengthByte hfits]
  · rw [h0, h1, h2, hcount, Nat.add_sub_cancel_left, hpayload, hpoly, hinit, hcsum]

theorem Inv.loadFrame (h : Inv s) {flags ulp : Nat} {payload f : List Byte}
    (he : encodeFn s.poly s.init flags ulp payload = .ok f) : Inv (loadFrame f s) :=
  have hframe := (txFrameOk_loadFrame h.txbWf he).1
  { h with
    txbWf := memWrite_wf h.txbWf (by rw [Nat.zero_add]; exact (txFrameOk_loadFrame h.txbWf he).2)
    txFrame := .inr hframe
    txLoaded := fun _ hzero => absurd hframe.low (by rw [hzero]; decide)
    corruptPair := nofun
    ackedFlag := nofun
    nackedFlag := nofun }

theorem timeOk_iff {t : State} :
    TimeOk t ↔ (t.timew = none → t.tSend ≤ t.now) ∧ ∀ w, t.timew = some w → t.now < 2 ^ w ∧ t.tSend < 2 ^ w := by
  unfold TimeOk
  cases t.timew with
  | none => simp
  | some w => simp

/-- R193: a send that fails leaves some bytes in TXLOG and ends the exchange; one that succeeds has had a frame to send, and stamps
the time. -/
theorem Inv.sendFrame (h : Inv s) (hs : s.hsState = .sending) (f : List Byte) : Inv (sendFrame f s) := by
  have hlogged (log : List Byte) (n : Nat) : Inv { s with txlog := log, choices := n } :=
    { h with txFrame := h.txFrame_congr rfl rfl rfl rfl }
  rcases sendFrame_cases f s with ⟨-, hsent⟩ | ⟨-, n, hsent⟩ <;> rw [hsent]
  · exact { h with
      txFrame := h.txFrame_congr rfl rfl rfl rfl
      txLoaded := fun _ => h.txLoaded (by rw [hs]; rfl)
      corruptPair := nofun
      ackedFlag := nofun
      nackedFlag := nofun
      time := timeOk_iff.mpr ⟨fun _ => Nat.le_refl _, fun w hw => have hnow := ((timeOk_iff.mp h.time).2 w hw).1; ⟨hnow, hnow⟩⟩ }
  · exact ((hlogged _ _).setErr (by decide) 0).setPlainState (.inr (.inr rfl))

/-- R197, R198: the ACK flag of the reply decides. -/
theorem Inv.acceptReply (h : Inv s) {p : Packet} (hp : p.payload.length ≤ 15) : Inv (acceptReply p s) := by
  have hpay : Memory.wf 15 (memWrite s.rpPay 0 p.payload) = true := memWrite_wf h.rpPayWf (by omega)
  have hstate := acceptReply_hsState s p
  cases hack : hasFlag p.flags flagAck with
  | true =>
    rw [hack, if_pos rfl] at hstate
    exact { h with
      rpPayWf := hpay
      txFrame := h.txFrame_congr rfl rfl rfl rfl
      txLoaded := by rw [hstate]; nofun
      corruptPair := by rw [hstate]; nofun
      ackedFlag := fun _ => hack
      nackedFlag := by rw [hstate]; nofun }
  | false =>
    rw [hack, if_neg nofun] at hstate
    exact { h with
      rpPayWf := hpay
      txFrame := h.txFrame_congr rfl rfl rfl rfl
      txLoaded := by rw [hstate]; nofun
      corruptPair := by rw [hstate]; nofun
      ackedFlag := by rw [hstate]; nofun
      nackedFlag := fun _ => hack }

/-- R30: the two checksums differ. -/
theorem Inv.corruptReply (h : Inv s) {rx comp : Byte} (hne : comp ≠ rx) : Inv (corruptReply rx comp s) :=
  { h with
    txFrame := h.txFrame_congr rfl rfl rfl rfl
    txLoaded := nofun
    corruptPair := fun _ => hne.symm
    ackedFlag := nofun
    nackedFlag := nofun }

theorem Inv.pollOnce (h : Inv s) : Inv (pollOnce s) := by
  cases pollOnce_cases s with
  | deadline _ _ hu => rw [hu]; exact h.timeOut
  | fault t hr hu => rw [hu]; exact (h.srTryRead hr).faultExchange
  | waits hr _ => exact h.srTryRead hr
  | late t _ hr _ hu => rw [hu]; exact (h.srTryRead hr).timeOut
  | reply t control len rx payload hr hl _ hu => rw [hu]; exact (h.srTryRead hr).acceptReply (hl ▸ declaredLen_le len)
  | corrupt t control len rx payload hr _ hc hu => rw [hu]; exact (h.srTryRead hr).corruptReply hc

/-- Every instruction keeps the invariant. -/
theorem Inv.of_execEnds {i : Instr} {t : State} (h : Inv s) (hends : ExecEnds i s t) : Inv t := by
  cases hends with
  | acc v _ => exact h.setAcc v
  | codec v _ _ => exact h.respond v
  | raised x _ hx => exact h.raise hx
  | started frame _ he => exact (h.loadFrame he).respond .unit
  | abandoned => exact (h.setPlainState (.inl rfl)).respond .unit
  | readFault t _ hr => exact (h.srTryRead hr).raise nofun
  | readPending t _ hr => exact (h.srTryRead hr).respond .pending
  | readFrame t f _ hr => exact (h.srTryRead hr).respond (.received f)
  | sent hs _ => exact h.sendFrame hs _
  | polled _ => exact h.pollOnce
  | disabled => exact h
  | arrived => exact h.arriveBytes _

/-! ### The environment -/

/-- R250: NOW wraps within TIMEW. -/
theorem advanceTime_now_lt {w : Nat} (hw : s.timew = some w) (d : Nat) : (advanceTime d s).now < 2 ^ w := by
  rw [advanceTime_now, hw]
  exact Nat.mod_lt _ (Nat.two_pow_pos w)

theorem Inv.advanceTime (h : Inv s) (d : Nat) : Inv (advanceTime d s) := by
  obtain ⟨hplain, hwidth⟩ := timeOk_iff.mp h.time
  refine { h with
    txFrame := h.txFrame_congr rfl rfl rfl rfl
    time := timeOk_iff.mpr ⟨fun hw => ?_, fun w hw => ⟨advanceTime_now_lt (s := s) hw d, (hwidth w hw).2⟩⟩ }
  have hw : s.timew = none := hw
  rw [advanceTime_now, hw]
  exact Nat.le_add_right_of_le (hplain hw)

theorem Inv.resetBlock (h : Inv s) : Inv (resetBlock s) where
  txbWf := rfl
  rxbWf := rfl
  rpPayWf := rfl
  txFrame := .inl rfl
  txLoaded := nofun
  rxPartial := .inl (by rw [resetBlock_rxCnt]; decide)
  corruptPair := nofun
  ackedFlag := nofun
  nackedFlag := nofun
  errNotTimeout := by rw [resetBlock_err]; decide
  time := timeOk_iff.mpr ⟨fun _ => Nat.zero_le _, fun w hw => ⟨((timeOk_iff.mp h.time).2 w hw).1, Nat.two_pow_pos w⟩⟩

theorem Inv.applyEnv (h : Inv s) (e : EnvEvent) : Inv (applyEnv e s) := by
  cases e with
  | arrive b => exact h.arriveBytes [b]
  | fail => exact h.setTfault true
  | repair => exact h.setTfault false
  | tick d => exact h.advanceTime d
  | reset => exact h.resetBlock

end

/-! ### Reset and the step -/

/-- Settles O45: after reset the buffers are empty, the counts 0, HS_STATE is IDLE and T_SEND is NOW. -/
theorem invariantHoldsAtReset : Obligations.InvariantHoldsAtReset where
  txbWf := rfl
  rxbWf := rfl
  rpPayWf := rfl
  txFrame := .inl rfl
  txLoaded := nofun
  rxPartial := .inl (by decide)
  corruptPair := nofun
  ackedFlag := nofun
  nackedFlag := nofun
  errNotTimeout := by decide
  time := Nat.le_refl 0

/-- Settles O46: an instruction by `ExecEnds`, the environment by its event, and the used-up agenda is no part of the invariant. -/
theorem stepKeepsTheInvariant : Obligations.StepKeepsTheInvariant := by
  unfold Obligations.StepKeepsTheInvariant
  intro s t h hstep
  cases step_cases hstep with
  | instr i s1 hn hends =>
    obtain ⟨rest, rfl⟩ := nextItem_exists_agenda hn
    exact (h.setAgenda rest).of_execEnds hends
  | env e s1 hn ht =>
    obtain ⟨rest, rfl⟩ := nextItem_exists_agenda hn
    rw [ht]
    exact (h.setAgenda rest).applyEnv e
  | quiet hn =>
    obtain ⟨rest, rfl⟩ := nextItem_exists_agenda hn
    exact h.setAgenda rest

/-! ### No fault -/

/-- R23: while an exchange is active TX_CNT is within the buffer. -/
theorem Inv.txCnt_le {s : State} (h : Inv s) (hactive : s.hsState.active = true) : s.txCnt.toNat ≤ 18 :=
  (h.txFrame.resolve_left (h.txLoaded hactive)).high

/-- Every instruction but XSEND completes in every state. -/
theorem exec_completes {i : Instr} (s : State) (hi : i ≠ .xsend) : ∃ t, exec i s = .next t := by
  cases i with
  | xsend => exact absurd rfl hi
  | encode flags ulp payload =>
    cases he : encodeFn s.poly s.init flags.toNat ulp.toNat payload with
    | ok f => exact ⟨_, exec_encode_ok he⟩
    | error x => exact ⟨_, exec_encode_error he⟩
  | decode buffer =>
    cases hd : decodeFn s.poly s.init buffer with
    | ok p => exact ⟨_, exec_decode_ok hd⟩
    | error x => exact ⟨_, exec_decode_error hd⟩
  | xstart flags ulp payload =>
    cases ha : s.hsState.active with
    | true => exact ⟨_, exec_xstart_busy ha flags ulp payload⟩
    | false =>
      cases he : encodeFn s.poly s.init flags.toNat ulp.toNat payload with
      | ok f => exact ⟨_, exec_xstart_ok ha he⟩
      | error x => exact ⟨_, exec_xstart_error ha he⟩
  | rdframe =>
    cases ha : s.hsState.active with
    | true => exact ⟨_, exec_rdframe_busy ha⟩
    | false =>
      rcases hr : srTryRead s with ⟨r, t⟩
      cases r with
      | fault => exact ⟨_, exec_rdframe_fault ha hr⟩
      | pending => exact ⟨_, exec_rdframe_pending ha hr⟩
      | frame f => exact ⟨_, exec_rdframe_frame ha hr⟩
  | xpoll =>
    by_cases hs : s.hsState = .awaitingReply
    · exact ⟨_, exec_xpoll hs⟩
    · exact ⟨_, exec_xpoll_idle hs⟩
  | _ => exact ⟨_, rfl⟩

/-- XSEND completes where TX_CNT is within the buffer (R61). -/
theorem Inv.exec_completes {s : State} (h : Inv s) (i : Instr) : ∃ t, exec i s = .next t := by
  by_cases hi : i = .xsend
  · subst hi
    by_cases hs : s.hsState = .sending
    · exact ⟨_, exec_xsend hs (h.txCnt_le (by rw [hs]; rfl))⟩
    · exact ⟨_, exec_xsend_idle hs⟩
  · exact Machine.exec_completes s hi

/-- Settles O47: under the invariant every instruction completes, and no other step can fault. -/
theorem noBufferAccessOutOfRange : Obligations.NoBufferAccessOutOfRange := by
  unfold Obligations.NoBufferAccessOutOfRange
  intro s f h hfault
  unfold step at hfault
  split at hfault
  · rename_i i s1 hn
    obtain ⟨rest, rfl⟩ := nextItem_exists_agenda hn
    obtain ⟨t, ht⟩ := (h.setAgenda rest).exec_completes i
    cases ht.symm.trans hfault
  all_goals cases hfault

end Sys2Proof.Machine
end

section
/-! Every exchange ends: the frame is sent in the first round, and each later round ends the exchange or brings it nearer to its deadline
(43_handshake.md R210). -/

namespace Sys2Proof.Machine

/-- HS_STATE is terminal after at most `n` steps from `s`. -/
def EndsWithin (n : Nat) (s : State) : Prop :=
  ∃ (k : Nat) (t : State), k ≤ n ∧ Host.Core.run Sys2Proof.core k s = .next t ∧ t.hsState.terminal = true

theorem EndsWithin.of_terminal {s : State} (h : s.hsState.terminal = true) (n : Nat) : EndsWithin n s :=
  ⟨0, s, Nat.zero_le n, rfl, h⟩

theorem EndsWithin.of_run {m n : Nat} {s t : State} (h : EndsWithin n t) (hrun : Host.Core.run Sys2Proof.core m s = .next t) :
    EndsWithin (m + n) s := by
  obtain ⟨k, u, hk, hu, hterminal⟩ := h
  exact ⟨m + k, u, Nat.add_le_add_left hk m, (run_add m k hrun).trans hu, hterminal⟩

/-! ### One round -/

/-- R66, R67: a step of the byte transport changes no register. -/
theorem applyEnv_readsOnly {e : EnvEvent} (he : e.ofTransport = true) (s : State) : ReadsOnly s (applyEnv e s) := by
  cases e with
  | arrive | fail | repair => rfl
  | tick | reset => cases he

theorem ReadsOnly.setAgenda {s t : State} (h : ReadsOnly s t) (rest : List Event) :
    ReadsOnly { s with agenda := rest } { t with agenda := rest } := by
  obtain ⟨m, c, q, p, g, n, rfl⟩ := h.exists_eq
  rfl

/-- The transport's steps at the front of the agenda, one after another. -/
theorem run_transport (es : List EnvEvent) {s : State} {rest : List Event} (he : ∀ e ∈ es, e.ofTransport = true)
    (h : s.agenda = es.map Event.env ++ rest) :
    ∃ t, Host.Core.run Sys2Proof.core es.length s = .next t ∧ ReadsOnly { s with agenda := rest } t := by
  induction es generalizing s with
  | nil =>
    obtain rfl : s.agenda = rest := h
    exact ⟨s, rfl, rfl⟩
  | cons e es ih =>
    obtain ⟨hfirst, hothers⟩ := List.forall_mem_cons.mp he
    have hreads := applyEnv_readsOnly hfirst { s with agenda := es.map Event.env ++ rest }
    obtain ⟨t, hrun, ht⟩ := ih hothers hreads.agenda_eq
    exact ⟨t, (run_next (step_env h) _).trans hrun, (hreads.setAgenda rest).trans ht⟩

/-- A round up to the controller's turn: the transport's steps, then TICK. -/
theorem run_round {r : List EnvEvent × Nat} {rounds : List (List EnvEvent × Nat)} {s : State}
    (hr : ∀ e ∈ r.1, e.ofTransport = true) (h : s.agenda = exchangeRounds (r :: rounds)) :
    ∃ t, ReadsOnly { s with agenda := .auto :: exchangeRounds rounds } t ∧
      Host.Core.run Sys2Proof.core (r.1.length + 1) s = .next (advanceTime r.2 t) := by
  have hagenda : s.agenda = r.1.map Event.env ++ (.env (.tick r.2) :: .auto :: exchangeRounds rounds) := by
    rw [h, exchangeRounds, List.flatMap_cons, List.append_assoc]
    rfl
  obtain ⟨t, hrun, ht⟩ := run_transport r.1 hr hagenda
  have htick : Host.Core.run Sys2Proof.core 1 t =
      .next (advanceTime r.2 { t with agenda := .auto :: exchangeRounds rounds }) := run_next (step_env ht.agenda_eq) 0
  exact ⟨_, ht.setAgenda _, (run_add _ 1 hrun).trans htick⟩

theorem exchangeRounds_cons_length (r : List EnvEvent × Nat) (rounds : List (List EnvEvent × Nat)) :
    (exchangeRounds (r :: rounds)).length = r.1.length + 2 + (exchangeRounds rounds).length := by
  simp only [exchangeRounds, List.flatMap_cons, List.length_append, List.length_map, List.length_cons, List.length_nil]

/-! ### The rounds of waiting -/

/-- A waiting exchange not past its deadline, with `rounds` still to come. -/
structure WaitsFor (rounds : List (List EnvEvent × Nat)) (s : State) : Prop where
  waiting : s.hsState = .awaitingReply
  time : TimeOk s
  early : elapsed s ≤ s.timeout
  agenda : s.agenda = exchangeRounds rounds

/-- A round ends the exchange or lets it wait on, the round's time later. -/
theorem WaitsFor.round {r : List EnvEvent × Nat} {rounds : List (List EnvEvent × Nat)} {s : State} (h : WaitsFor (r :: rounds) s)
    (hr : ∀ e ∈ r.1, e.ofTransport = true) (hw : ∀ w, s.timew = some w → elapsed s + r.2 < 2 ^ w) :
    ∃ u, Host.Core.run Sys2Proof.core (r.1.length + 2) s = .next u ∧
      (u.hsState.terminal = true ∨
        (WaitsFor rounds u ∧ elapsed u = elapsed s + r.2 ∧ u.timeout = s.timeout ∧ u.timew = s.timew)) := by
  obtain ⟨t, ht, hrun⟩ := run_round hr h.agenda
  have helapsed : elapsed t = elapsed s := ht.elapsed_eq
  have htimew : t.timew = s.timew := ht.timew_eq
  have htimeout : t.timeout = s.timeout := ht.timeout_eq
  obtain ⟨hclock, htime⟩ := elapsed_advanceTime (ht.timeOk h.time) (by rwa [helapsed, htimew])
  have hpoll := run_next (step_auto_poll (s := advanceTime r.2 t) ht.agenda_eq (ht.hsState_eq.trans h.waiting)) 0
  refine ⟨_, (run_add _ 1 hrun).trans hpoll, ?_⟩
  refine (pollOnce_ends_or_waits _).imp_right fun ⟨hearly, hreads⟩ => ?_
  have helapsed' := hreads.elapsed_eq.trans hclock
  refine ⟨⟨?_, hreads.timeOk htime, ?_, hreads.agenda_eq⟩, ?_, ?_, ?_⟩
  · exact hreads.hsState_eq.trans (ht.hsState_eq.trans h.waiting)
  · rw [hreads.elapsed_eq, hreads.timeout_eq]
    exact hearly
  · rw [helapsed', helapsed]
  · exact hreads.timeout_eq.trans htimeout
  · exact hreads.timew_eq.trans htimew

/-- R210, by induction over the rounds: in `n` of them, each at least one time unit long, the deadline passes. -/
theorem WaitsFor.endsWithin {n : Nat} (rounds : List (List EnvEvent × Nat)) {s : State} (h : WaitsFor rounds s)
    (hw : ∀ w, s.timew = some w → elapsed s + (rounds.map (·.2)).sum < 2 ^ w)
    (hrounds : ∀ r ∈ rounds, 1 ≤ r.2 ∧ ∀ e ∈ r.1, e.ofTransport = true) (hn : n ≤ rounds.length)
    (hlate : s.timeout < elapsed s + n) : EndsWithin (exchangeRounds (rounds.take n)).length s := by
  induction rounds generalizing s n with
  | nil =>
    have hearly := h.early
    rw [List.length_nil] at hn
    omega
  | cons r rounds ih =>
    cases n with
    | zero => exact absurd h.early (Nat.not_le.mpr hlate)
    | succ n =>
      obtain ⟨⟨hlong, htransport⟩, hothers⟩ := List.forall_mem_cons.mp hrounds
      simp only [List.map_cons, List.sum_cons] at hw
      obtain ⟨u, hrun, hu⟩ := h.round htransport fun w hw' => by have := hw w hw'; omega
      rw [List.take_succ_cons, exchangeRounds_cons_length]
      refine EndsWithin.of_run ?_ hrun
      rcases hu with hterminal | ⟨hwaits, helapsed, htimeout, htimew⟩
      · exact .of_terminal hterminal _
      · refine ih hwaits (fun w hw' => ?_) hothers (Nat.le_of_succ_le_succ hn) (by omega)
        have := hw w (htimew ▸ hw')
        omega

/-! ### The round of the send -/

theorem elapsed_of_tSend_eq_now {s : State} (h : s.tSend = s.now) : elapsed s = 0 := by
  unfold elapsed
  cases s.timew <;> simp [h]

/-- R193: the controller's turn in SENDING ends the exchange, or it waits from now on with no time elapsed. -/
theorem sendFrame_ends_or_waits {rounds : List (List EnvEvent × Nat)} (f : List Byte) {s : State}
    (hw : ∀ w, s.timew = some w → s.now < 2 ^ w) (hagenda : s.agenda = exchangeRounds rounds) :
    (sendFrame f s).hsState.terminal = true ∨
      (WaitsFor rounds (sendFrame f s) ∧ elapsed (sendFrame f s) = 0 ∧ (sendFrame f s).timeout = s.timeout ∧
        (sendFrame f s).timew = s.timew) := by
  rcases sendFrame_cases f s with ⟨-, h⟩ | ⟨-, n, h⟩ <;> rw [h]
  · have hzero := elapsed_of_tSend_eq_now (s := { s with txlog := s.txlog ++ f, tSend := s.now, hsState := .awaitingReply }) rfl
    refine .inr ⟨⟨rfl, ?_, ?_, hagenda⟩, hzero, rfl, rfl⟩
    · exact timeOk_iff.mpr ⟨fun _ => Nat.le_refl _, fun w hw' => ⟨hw w hw', hw w hw'⟩⟩
    · rw [hzero]
      exact Nat.zero_le _
  · exact .inl rfl

/-- Settles O37: the first round sends, and the TIMEOUT + 1 rounds after it pass the deadline. -/
theorem everyExchangeEnds : Obligations.EveryExchangeEnds := by
  unfold Obligations.EveryExchangeEnds
  intro s rounds hs hcount hw hagenda hrounds hlength
  cases rounds with
  | nil => simp at hlength
  | cons r rounds =>
    obtain ⟨⟨-, htransport⟩, hothers⟩ := List.forall_mem_cons.mp hrounds
    simp only [List.map_cons, List.sum_cons] at hw
    obtain ⟨t, ht, hrun⟩ := run_round htransport hagenda
    have htxCnt : t.txCnt = s.txCnt := by rw [ht]
    have hsend := run_next (step_auto_send (s := advanceTime r.2 t) ht.agenda_eq (ht.hsState_eq.trans hs)
      (by rwa [advanceTime_txCnt, htxCnt])) 0
    have hturn := (run_add _ 1 hrun).trans hsend
    rw [List.take_succ_cons, exchangeRounds_cons_length]
    refine EndsWithin.of_run ?_ hturn
    rcases sendFrame_ends_or_waits (rounds := rounds) _ (s := { advanceTime r.2 t with agenda := exchangeRounds rounds })
      (fun w hw' => advanceTime_now_lt (s := t) hw' r.2) rfl with hterminal | ⟨hwaits, hzero, htimeout, htimew⟩
    · exact .of_terminal hterminal _
    · have htimeout := htimeout.trans ht.timeout_eq
      have htimew := htimew.trans ht.timew_eq
      refine hwaits.endsWithin rounds (fun w hw' => ?_) hothers (Nat.le_of_succ_le_succ hlength) ?_
      · have hshort := hw w (htimew.symm.trans hw')
        rw [hzero]
        omega
      · rw [hzero, htimeout]
        exact Nat.lt_of_lt_of_eq (Nat.lt_succ_self _) (Nat.zero_add _).symm

end Sys2Proof.Machine
end
